-- ==== Sys2Proof/Word.lean ====
section
/-! DEFINITION. The two widths of SHA1CE's data (00_scope.md R9, R11, R16): 32-bit unsigned words, and the bytes of the
host's messages and of the digest string. Every value is unsigned; addition is modulo 2^32 (R12), which is BitVec's own. -/

namespace Sys2Proof

/-- A 32-bit unsigned word, bit 0 the least significant (00_scope.md R11, R12). -/
abbrev Word := BitVec 32

/-- A byte of a message, or an ASCII code of the digest string (00_scope.md R16). -/
abbrev Byte := BitVec 8

end Sys2Proof
end

