-- ==== Sys2Proof/Config.lean ====
section
/-! DEFINITION. What is fixed for one machine but not by the spec: the free values and the platform's parameters. A constant
without a body is opaque: no proof can learn its value. -/

namespace Sys2Proof

/-- The value of `rdata` in a cycle that does not follow a read transaction (44_host_commands.md R190, item I11 of
93_implementation_defined.md: any value). It is applied to `State.freeNext`, so each such cycle has a value of its own.
Log entry 5. -/
opaque Config.freeRdata : Nat → Word

/-- SHA1CE_BASE: the byte address at which a platform places the register space (20_memory.md R58, decision D3: open).
Log entry 18. -/
opaque Config.sha1ceBase : Nat

/-- The 64-bit length field of a message longer than MAX_MESSAGE_BYTES, whose bit length does not fit. The source does not say
what it holds, and that it wraps must not be assumed (91_not_in_source.md N6). It is applied to the message's length. DESIGN
CHOICE, log entry 24. -/
opaque Config.freeLengthField : Nat → BitVec 64

/-- MAX_MESSAGE_BYTES, the longest message the host's formatter accepts (00_scope.md R10, 40_message_formatting.md R107). -/
def Config.maxMessageBytes : Nat := 2 ^ 61 - 1

end Sys2Proof
end

