-- ==== Sys2Proof/Machine/Constants.lean ====
section
/-! DEFINITION. The constants SHA1CE is made with: the ID value, the initial hash value and the round-constant ROM. None of
them is State: no rule changes them (log entry 10). -/

namespace Sys2Proof.Machine

/-- ID_VALUE, "SHA1" (00_scope.md R10, 10_state.md R24). -/
def idValue : Word := 0x53484131#32

/-- IV, loaded into H by reset and by INIT (10_state.md R22). -/
def iv : Vector Word 5 :=
  #v[0x67452301#32, 0xEFCDAB89#32, 0x98BADCFE#32, 0x10325476#32, 0xC3D2E1F0#32]

/-- The round-constant ROM K[0..3] (10_state.md R31, 42_compression_rounds.md R135). -/
def romK : Vector Word 4 :=
  #v[0x5A827999#32, 0x6ED9EBA1#32, 0x8F1BBCDC#32, 0xCA62C1D6#32]

end Sys2Proof.Machine
end

