-- ==== Sys2Proof/Machine/State.lean ====
section
/-! DEFINITION. The state of SHA1CE (10_state.md), as plain data, its reset value (R37), and the reasons a step can stop. -/

namespace Sys2Proof.Machine

/-- The five working variables A..E (10_state.md R23); also the five words a compression function takes and gives (R140). -/
structure Vars where
  a : Word
  b : Word
  c : Word
  d : Word
  e : Word
  deriving DecidableEq, Repr

/-- PHASE (10_state.md R29): IDLE, no command in flight; ROUND, rounds in progress; FINISH, accumulation due. -/
inductive Phase where
  | idle
  | round
  | finish
  deriving DecidableEq, Repr

/-- One clock cycle as the outside world drives it: the input ports (10_state.md R20), and how many steps the engine is
given at the cycle's closing edge. No rule fixes that number (20_memory.md R60, 70_reset_and_hazards.md R246), so it is data
and every number is admitted. Log entries 1 and 2. -/
structure Cycle where
  rst : Bool
  sel : Bool
  we : Bool
  addr : BitVec 6
  wdata : Word
  engine : Nat
  deriving DecidableEq, Repr

/-- The state of SHA1CE. STATUS.BUSY and the port `busy` are computed from `phase` (R29; log entry 9); ID, K, CMD and HEX
hold no state (R24, R25, R31, R32). -/
structure State where
  /-- H[0..4] (R21) -/
  h : Vector Word 5
  /-- A..E (R23) -/
  vars : Vars
  /-- MSG[0..15] (R28) -/
  msg : Vector Word 16
  /-- WIN[0..15] (R30) -/
  win : Vector Word 16
  /-- PHASE (R29) -/
  phase : Phase
  /-- T, the next round's index; a 7-bit register that never holds 80..127 (R29; log entry 11) -/
  t : Fin 80
  /-- STATUS.ERR_BUSY (R26) -/
  errBusy : Bool
  /-- STATUS.ERR_CMD (R26) -/
  errCmd : Bool
  /-- BLKCNT (R27) -/
  blkcnt : Word
  /-- the output port rdata, as the last edge left it (R20, R37) -/
  rdata : Word
  /-- the output port done, as the last edge left it (R20) -/
  done : Bool
  /-- MODEL'S OWN: this cycle and the cycles to come, as the outside world drives them (log entry 1) -/
  cycles : List Cycle
  /-- MODEL'S OWN: the index of the next free value of rdata (log entry 5) -/
  freeNext : Nat
  deriving DecidableEq, Repr

/-- Why the machine stops: never. Every transaction has an effect (30_encoding.md R73), the errors are recorded in STATUS
and the machine goes on (60_exceptions.md R200 to R203), and no behaviour is stuck (93_implementation_defined.md). So no
instruction raises a fault, and a run is never cut short, which is what the spec says. Log entry 19. -/
inductive Fault where
  deriving DecidableEq, Repr

/-- Why an instruction has no meaning in the model. -/
inductive Refusal where
  /-- Raised by an arm of `exec` whose instruction is not modelled yet; none is left. Safe: the model stops. -/
  | notModelled (mnemonic : String)
  deriving DecidableEq, Repr

/-- The state right after reset (10_state.md R37). The spec leaves A..E and WIN unspecified: they are 0 here (log entries 6
and 7). No cycle is waiting and no free value has been used (log entries 1 and 5). -/
def State.reset : State where
  h := iv
  vars := ⟨0, 0, 0, 0, 0⟩
  msg := #v[0, 0, 0, 0, 0, 0, 0, 0, 0, 0, 0, 0, 0, 0, 0, 0]
  win := #v[0, 0, 0, 0, 0, 0, 0, 0, 0, 0, 0, 0, 0, 0, 0, 0]
  phase := .idle
  t := 0
  errBusy := false
  errCmd := false
  blkcnt := 0
  rdata := 0
  done := false
  cycles := []
  freeNext := 0

end Sys2Proof.Machine
end

