-- ==== Sys2Proof/Machine/Datapath.lean ====
section
/-! DEFINITION. The 32-bit rotate-XOR datapath, the selection of round function and round constant, and one round of the
compression as a pure function of the working variables (42_compression_rounds.md R130 to R138). -/

namespace Sys2Proof.Machine

/-- ROTL (R130), `((n << b) OR (n >> (32 - b))) mod 2^32`. It has no meaning for b = 0 or b = 32: the third argument keeps b
in 1..31 (log entry 17). -/
def rotl (n : Word) (b : Nat) (_ : 1 ≤ b ∧ b ≤ 31 := by decide) : Word :=
  (n <<< b) ||| (n >>> (32 - b))

/-- F_CH (R132). -/
def fCh (b c d : Word) : Word := (b &&& c) ||| (~~~b &&& d)

/-- F_PAR (R133). -/
def fPar (b c d : Word) : Word := b ^^^ c ^^^ d

/-- F_MAJ (R134). -/
def fMaj (b c d : Word) : Word := (b &&& c) ||| (b &&& d) ||| (c &&& d)

/-- The group of a round, g = floor(t / 20) (R136). -/
def roundGroup (t : Fin 80) : Fin 4 := ⟨t.val / 20, by omega⟩

/-- The round function of a group (R136). -/
def roundF (g : Fin 4) (b c d : Word) : Word :=
  match g with
  | 0 => fCh b c d
  | 1 => fPar b c d
  | 2 => fMaj b c d
  | 3 => fPar b c d

/-- The round constant of a group (R135, R136). -/
def roundK (g : Fin 4) : Word := romK[g]

/-- The round adder, five words modulo 2^32 (R137). -/
def roundSum (a f e k w : Word) : Word := rotl a 5 + f + e + k + w

/-- The working variables after round t with schedule word w; every right-hand side reads the values before (R138). -/
def roundVars (v : Vars) (t : Fin 80) (w : Word) : Vars where
  a := roundSum v.a (roundF (roundGroup t) v.b v.c v.d) v.e (roundK (roundGroup t)) w
  b := v.a
  c := rotl v.b 30
  d := v.c
  e := v.d

end Sys2Proof.Machine
end

