-- ==== Sys2Proof/Machine/Schedule.lean ====
section
/-! DEFINITION. The message scheduler (41_message_schedule.md): the 80 schedule words as the source defines them (R120, R121),
and the step that produces them from the 16-word window (R122). -/

namespace Sys2Proof.Machine

/-- The word after W[0..n-1] (R121): `rotl(W[n-3] XOR W[n-8] XOR W[n-14] XOR W[n-16], 1)`, for n at least 16. -/
def nextScheduleWord (ws : List Word) : Word :=
  let n := ws.length
  rotl (ws.getD (n - 3) 0 ^^^ ws.getD (n - 8) 0 ^^^ ws.getD (n - 14) 0 ^^^ ws.getD (n - 16) 0) 1

/-- W[0..15+n]: the block's words, then n derived ones (R120, R121). -/
def scheduleUpTo (w : Vector Word 16) : Nat → List Word
  | 0 => w.toList
  | n + 1 =>
    let ws := scheduleUpTo w n
    ws ++ [nextScheduleWord ws]

/-- The 80 schedule words of a block (00_scope.md R9, R120, R121). -/
def schedule (w : Vector Word 16) : List Word := scheduleUpTo w 64

/-- W[t] of a block. -/
def scheduleWord (w : Vector Word 16) (t : Fin 80) : Word := (schedule w).getD t.val 0

/-- The word SCHED_STEP computes in round t ≥ 16 from the window (R122). -/
def windowWord (win : Vector Word 16) (t : Nat) : Word :=
  rotl (win[(t - 3) % 16] ^^^ win[(t - 8) % 16] ^^^ win[(t - 14) % 16] ^^^ win[t % 16]) 1

/-- SCHED_STEP (R122): the schedule word of round t and the window after it. -/
def schedStep (win : Vector Word 16) (t : Fin 80) : Word × Vector Word 16 :=
  if h : t.val < 16 then (win[t.val], win)
  else
    let w := windowWord win t.val
    (w, win.set (t.val % 16) w)

/-- The window before round n of a block, as SCHED_STEP leaves it: all of it is the block at first (10_state.md R30), and
each round gives the next one (R122, R123). There are no rounds past 79. -/
def windowAfter (w : Vector Word 16) : Nat → Vector Word 16
  | 0 => w
  | n + 1 => if hn : n < 80 then (schedStep (windowAfter w n) ⟨n, hn⟩).2 else windowAfter w n

end Sys2Proof.Machine
end

