-- ==== Sys2Proof/Machine/Compress.lean ====
section
/-! DEFINITION. The compression function CF (42_compression_rounds.md R140) and the accumulation (43_accumulate_and_digest.md
R150) as pure functions. -/

namespace Sys2Proof.Machine

/-- The working variables as COMPRESS loads them from H (44_host_commands.md R176). -/
def Vars.ofHash (h : Vector Word 5) : Vars := ⟨h[0], h[1], h[2], h[3], h[4]⟩

/-- The working variables after rounds 0 .. n-1, from `v`, with the schedule words `ws` (R140; n at most 80: there are no
rounds past 79). -/
def cfRounds (v : Vars) (ws : List Word) : Nat → Vars
  | 0 => v
  | n + 1 =>
    if hn : n < 80 then roundVars (cfRounds v ws n) ⟨n, hn⟩ (ws.getD n 0) else cfRounds v ws n

/-- CF(S, w) (R140). -/
def cf (s : Vars) (w : Vector Word 16) : Vars := cfRounds s (schedule w) 80

/-- `(H[0]+A, ..., H[4]+E)`, each sum modulo 2^32 (R150). -/
def accumulate (h : Vector Word 5) (v : Vars) : Vector Word 5 :=
  #v[h[0] + v.a, h[1] + v.b, h[2] + v.c, h[3] + v.d, h[4] + v.e]

/-- The hash state after one more block: CF, then the accumulation (40_message_formatting.md R108). -/
def hashBlock (h : Vector Word 5) (w : Vector Word 16) : Vector Word 5 :=
  accumulate h (cf (Vars.ofHash h) w)

end Sys2Proof.Machine
end

