-- ==== Sys2Proof/Machine/Flags.lean ====
section
/-! DEFINITION. The STATUS register: the only status bits of SHA1CE (10_state.md R26, R33). No arithmetic writes a flag. -/

namespace Sys2Proof.Machine

/-- STATUS.BUSY, and the output port `busy`: 1 exactly when PHASE is ROUND or FINISH (10_state.md R20, R26, R29). -/
def State.busy (s : State) : Bool :=
  match s.phase with
  | .idle => false
  | .round => true
  | .finish => true

/-- STATUS as read: ERR_CMD in bit 2, ERR_BUSY in bit 1, BUSY in bit 0, the rest 0 (10_state.md R26, 44_host_commands.md
R178). -/
def State.statusWord (s : State) : Word :=
  (BitVec.ofBool s.errCmd ++ BitVec.ofBool s.errBusy ++ BitVec.ofBool s.busy).setWidth 32

/-- A write-1-to-clear bit after a write of `clear` to it (30_encoding.md R77, 44_host_commands.md R179). -/
def afterW1c (bit clear : Bool) : Bool := bit && !clear

end Sys2Proof.Machine
end

