-- ==== Sys2Proof/Machine/Digest.lean ====
section
/-! DEFINITION. The digest hex encoder (43_accumulate_and_digest.md R152 to R155). It holds no state. -/

namespace Sys2Proof.Machine

/-- hexchar(n): the ASCII code of the lowercase hexadecimal digit of n (R152). -/
def hexchar (n : BitVec 4) : Byte :=
  if n < 10#4 then 0x30#8 + n.setWidth 8 else 0x61#8 + (n.setWidth 8 - 10#8)

/-- char[c] of HEXSTR: the digit `31 - 4p : 28 - 4p` of word k, with k = floor(c / 8) and p = c mod 8 (R153). -/
def digestChar (h : Vector Word 5) (c : Fin 40) : Byte :=
  hexchar (h[c.val / 8].extractLsb' (28 - 4 * (c.val % 8)) 4)

/-- HEXSTR, the 40 characters of the digest (R153). -/
def hexStr (h : Vector Word 5) : List Byte := (List.finRange 40).map (digestChar h)

/-- HEX[j]: characters 4j .. 4j+3, the earlier one in the more significant byte (R154). -/
def hexWord (h : Vector Word 5) (j : Fin 10) : Word :=
  digestChar h ⟨4 * j.val, by omega⟩ ++ digestChar h ⟨4 * j.val + 1, by omega⟩ ++
    digestChar h ⟨4 * j.val + 2, by omega⟩ ++ digestChar h ⟨4 * j.val + 3, by omega⟩

end Sys2Proof.Machine
end

