-- ==== Sys2Proof/Machine/Operands.lean ====
section
/-! DEFINITION. The operand forms (30_encoding.md R71, R74, R77, R78): the windowed registers read through an index
sub-field, with the holes of the H and HEX windows, and the bits of a STATUS write. There are no immediates, no registers in
the encoding, no displacements and no sign extension. -/

namespace Sys2Proof.Machine

/-- A read in the MSG window (44_host_commands.md R180). -/
def msgOperand (s : State) (i : Fin 16) : Word := s.msg[i]

/-- A read in the H window: H[j], and 0 in the hole j = 5..7 (44_host_commands.md R183). -/
def hOperand (s : State) (j : Fin 8) : Word := if hj : j.val ≤ 4 then s.h[j.val] else 0

/-- A read in the HEX window: HEX[j], and 0 in the hole j = 10..15 (44_host_commands.md R185). -/
def hexOperand (s : State) (j : Fin 16) : Word :=
  if hj : j.val ≤ 9 then hexWord s.h ⟨j.val, by omega⟩ else 0

/-- The bit of a STATUS write that clears ERR_BUSY (30_encoding.md R77). -/
def clearsErrBusy (v : Word) : Bool := v.getLsbD 1

/-- The bit of a STATUS write that clears ERR_CMD (30_encoding.md R77). -/
def clearsErrCmd (v : Word) : Bool := v.getLsbD 2

end Sys2Proof.Machine
end

