-- ==== Sys2Proof/Machine/Ops.lean ====
section
/-! DEFINITION. The named operations over the registers that the meanings share: a read's answer, a MSG write, raising an
error and clearing one, the start of a run and the acceptance of a COMPRESS, and the register map. -/

namespace Sys2Proof.Machine

/-- A read transaction's answer: the value is on rdata in the next cycle (10_state.md R20, 70_reset_and_hazards.md R245).
Nothing else changes (20_memory.md R57). -/
def State.answer (s : State) (v : Word) : State := { s with rdata := v }

/-- `MSG[i] <- v` (44_host_commands.md R181). -/
def State.writeMsg (s : State) (i : Fin 16) (v : Word) : State := { s with msg := s.msg.set i v }

/-- The two errors (60_exceptions.md R201, R202). There is no other cause (00_scope.md R15). -/
inductive ErrorCause where
  | errBusy
  | errCmd
  deriving DecidableEq, Repr

/-- The cause code, which is the STATUS bit the error sets (60_exceptions.md R201, R202). -/
def ErrorCause.code : ErrorCause → Nat
  | .errBusy => 1
  | .errCmd => 2

/-- `raise`: the transaction has no effect other than setting its sticky error bit (00_scope.md R15, 60_exceptions.md R201,
R202). This is all there is of trap entry: nothing is saved and no control is transferred (R207). -/
def State.raise (s : State) : ErrorCause → State
  | .errBusy => { s with errBusy := true }
  | .errCmd => { s with errCmd := true }

/-- The "return" from an error: a STATUS write clears the bits it writes 1 to (60_exceptions.md R208, 44_host_commands.md
R179). BUSY and the other bits are not written. -/
def State.clearErrors (s : State) (v : Word) : State :=
  { s with
    errBusy := afterW1c s.errBusy (clearsErrBusy v)
    errCmd := afterW1c s.errCmd (clearsErrCmd v) }

/-- An operation that is rejected with ErrBusy while BUSY = 1 (60_exceptions.md R201); `accepted` is its effect otherwise. -/
def State.unlessBusy (s accepted : State) : State := if s.busy then s.raise .errBusy else accepted

/-- The start of a run: `H <- IV`, `BLKCNT <- 0` (44_host_commands.md R175). -/
def State.startRun (s : State) : State := { s with h := iv, blkcnt := 0 }

/-- The acceptance of a COMPRESS (44_host_commands.md R176). -/
def State.acceptBlock (s : State) : State :=
  { s with vars := Vars.ofHash s.h, win := s.msg, t := 0, phase := .round }

/-- The register map (10_state.md R38): what a read at a word address returns, whatever the transaction is called. -/
def State.regMap (s : State) (addr : BitVec 6) : Word :=
  let a := addr.toNat
  if a = 0x00 then idValue
  else if a = 0x02 then s.statusWord
  else if a = 0x03 then s.blkcnt
  else if hm : 0x10 ≤ a ∧ a ≤ 0x1F then s.msg[a - 0x10]
  else if hh : 0x20 ≤ a ∧ a ≤ 0x24 then s.h[a - 0x20]
  else if hx : 0x30 ≤ a ∧ a ≤ 0x39 then hexWord s.h ⟨a - 0x30, by omega⟩
  else 0

/-- The byte offset of a word address (10_state.md R38, 20_memory.md R55). -/
def byteOffset (addr : BitVec 6) : Nat := 4 * addr.toNat

/-- The byte address of a word address on a platform (20_memory.md R55, R58; the base is the platform's, log entry 18). -/
def platformAddress (addr : BitVec 6) : Nat := Config.sha1ceBase + byteOffset addr

end Sys2Proof.Machine
end

