-- ==== Sys2Proof/Machine/HashDigest.lean ====
section
/-! DEFINITION. The transactions on the hash words and on the digest (44_host_commands.md R183 to R186). -/

namespace Sys2Proof.Machine

/-- RD_H (R183): while BUSY = 1 it returns H from before the block (43_accumulate_and_digest.md R151). -/
def execRdH (j : Fin 8) (s : State) : Host.Outcome State Fault Refusal := .next (s.answer (hOperand s j))

/-- WR_H (R184): ignored; the host cannot load a chaining value. -/
def execWrH (_j : Fin 8) (_v : Word) (s : State) : Host.Outcome State Fault Refusal := .next s

/-- RD_HEX (R185): computed from H at this moment (43_accumulate_and_digest.md R155). -/
def execRdHex (j : Fin 16) (s : State) : Host.Outcome State Fault Refusal := .next (s.answer (hexOperand s j))

/-- WR_HEX (R186): ignored; HEX has no storage. -/
def execWrHex (_j : Fin 16) (_v : Word) (s : State) : Host.Outcome State Fault Refusal := .next s

end Sys2Proof.Machine
end

