-- ==== Sys2Proof/Syntax.lean ====
section
/-! DEFINITION. The instructions of SHA1CE: one constructor per row of spec/opcode_table.json. The rows are the host's 16
register transactions (30_encoding.md R72) and the 4 commands that a write to CMD carries (30_encoding.md R76). -/

namespace Sys2Proof

/-- A row of the opcode table with its operands (30_encoding.md R71, R74, R75). A write keeps its `wdata` even where the
rule ignores it, since the host presents it. -/
inductive Instr where
  /-- R170 -/
  | rdId
  /-- R171: the data is ignored -/
  | wrId (v : Word)
  /-- R172 -/
  | rdCmd
  /-- R173: `cw` is a command word, decoded a second time -/
  | wrCmd (cw : Word)
  /-- R178 -/
  | rdStatus
  /-- R179: write-1-to-clear -/
  | wrStatus (v : Word)
  /-- R182 -/
  | rdBlkcnt
  /-- R187: the data is ignored -/
  | wrBlkcnt (v : Word)
  /-- R180: `i` is ADDR[3:0] -/
  | rdMsg (i : Fin 16)
  /-- R181: `i` is ADDR[3:0] -/
  | wrMsg (i : Fin 16) (v : Word)
  /-- R183: `j` is ADDR[2:0]; 5..7 are the hole of the window -/
  | rdH (j : Fin 8)
  /-- R184: the data is ignored -/
  | wrH (j : Fin 8) (v : Word)
  /-- R185: `j` is ADDR[3:0]; 10..15 are the hole of the window -/
  | rdHex (j : Fin 16)
  /-- R186: the data is ignored -/
  | wrHex (j : Fin 16) (v : Word)
  /-- R188: a reserved address -/
  | rdRsvd (addr : BitVec 6)
  /-- R189: a reserved address; the data is ignored -/
  | wrRsvd (addr : BitVec 6) (v : Word)
  /-- R174 -/
  | nop
  /-- R175 -/
  | init
  /-- R176 -/
  | compress
  /-- R177: a command word other than 0, 1 and 2 -/
  | cmdRsvd (cw : Word)
  deriving DecidableEq, Repr

end Sys2Proof
end

