-- ==== Sys2Proof/WellFormed.lean ====
section
/-! DEFINITION. Which terms of `Instr` are instructions: the two fall-back rows of the BUS table and the fall-back row of
the CMD table take exactly what the rows before them leave (30_encoding.md R72, R76). -/

namespace Sys2Proof

/-- The addresses rows 1 to 14 of the BUS table leave: 0x04..0x0F and 0x28..0x2F (30_encoding.md R72). -/
def reservedAddr (a : BitVec 6) : Bool :=
  (0x04#6 ≤ a && a ≤ 0x0F#6) || (0x28#6 ≤ a && a ≤ 0x2F#6)

/-- The command words rows 1 to 3 of the CMD table leave (30_encoding.md R76). -/
def reservedCommand (cw : Word) : Bool :=
  cw != 0#32 && cw != 1#32 && cw != 2#32

/-- The check of a term, as a Bool. -/
def Instr.wf : Instr → Bool
  | .rdId => true
  | .wrId _ => true
  | .rdCmd => true
  | .wrCmd _ => true
  | .rdStatus => true
  | .wrStatus _ => true
  | .rdBlkcnt => true
  | .wrBlkcnt _ => true
  | .rdMsg _ => true
  | .wrMsg _ _ => true
  | .rdH _ => true
  | .wrH _ _ => true
  | .rdHex _ => true
  | .wrHex _ _ => true
  | .rdRsvd a => reservedAddr a
  | .wrRsvd a _ => reservedAddr a
  | .nop => true
  | .init => true
  | .compress => true
  | .cmdRsvd cw => reservedCommand cw

/-- A well-formed instruction. -/
abbrev WellFormed (i : Instr) : Prop := i.wf = true

end Sys2Proof
end

