-- ==== Sys2Proof/Decode.lean ====
section
/-! DEFINITION. The two decoders of SHA1CE (30_encoding.md R70 to R76) as match/mask tables read in order, then the encoder
written from the same tables' patterns. Decoding is total: no code is illegal (R73, R76, R81). Only a numeral that is not a
code of either format is rejected, by name (`CodeError`). -/

namespace Sys2Proof

/-- The two formats (30_encoding.md R70): a transaction on the port (TC with its write data; the data of a read is not
looked at), and a command word. -/
inductive Code where
  | bus (tc : BitVec 7) (wdata : Word)
  | cmd (cw : Word)
  deriving DecidableEq, Repr

/-- The rows of the BUS decode table (30_encoding.md R72). -/
inductive BusRow where
  | rdId | wrId | rdCmd | wrCmd | rdStatus | wrStatus | rdBlkcnt | wrBlkcnt
  | rdMsg | wrMsg | rdH | wrH | rdHex | wrHex | rdRsvd | wrRsvd
  deriving DecidableEq, Repr

/-- The rows of the CMD decode table (30_encoding.md R76). -/
inductive CmdRow where
  | nop | init | compress | cmdRsvd
  deriving DecidableEq, Repr

/-- One line of the BUS decode table: a row is hit by the TCs with `(TC AND mask) = pattern`. -/
structure BusEntry where
  row : BusRow
  pattern : BitVec 7
  mask : BitVec 7
  deriving DecidableEq, Repr

/-- One line of the CMD decode table. -/
structure CmdEntry where
  row : CmdRow
  pattern : Word
  mask : Word
  deriving DecidableEq, Repr

/-- The BUS decode table, in the order of 30_encoding.md R72. -/
def busTable : List BusEntry :=
  [ ⟨.rdId,     0x00#7, 0x7F#7⟩,
    ⟨.wrId,     0x40#7, 0x7F#7⟩,
    ⟨.rdCmd,    0x01#7, 0x7F#7⟩,
    ⟨.wrCmd,    0x41#7, 0x7F#7⟩,
    ⟨.rdStatus, 0x02#7, 0x7F#7⟩,
    ⟨.wrStatus, 0x42#7, 0x7F#7⟩,
    ⟨.rdBlkcnt, 0x03#7, 0x7F#7⟩,
    ⟨.wrBlkcnt, 0x43#7, 0x7F#7⟩,
    ⟨.rdMsg,    0x10#7, 0x70#7⟩,
    ⟨.wrMsg,    0x50#7, 0x70#7⟩,
    ⟨.rdH,      0x20#7, 0x78#7⟩,
    ⟨.wrH,      0x60#7, 0x78#7⟩,
    ⟨.rdHex,    0x30#7, 0x70#7⟩,
    ⟨.wrHex,    0x70#7, 0x70#7⟩,
    ⟨.rdRsvd,   0x00#7, 0x40#7⟩,
    ⟨.wrRsvd,   0x40#7, 0x40#7⟩ ]

/-- The CMD decode table, in the order of 30_encoding.md R76. -/
def cmdTable : List CmdEntry :=
  [ ⟨.nop,      0x00000000#32, 0xFFFFFFFF#32⟩,
    ⟨.init,     0x00000001#32, 0xFFFFFFFF#32⟩,
    ⟨.compress, 0x00000002#32, 0xFFFFFFFF#32⟩,
    ⟨.cmdRsvd,  0x00000000#32, 0x00000000#32⟩ ]

/-- `(TC AND mask) = match` (30_encoding.md R72). -/
def BusEntry.hits (e : BusEntry) (tc : BitVec 7) : Bool := (tc &&& e.mask) == e.pattern

/-- `(CW AND mask) = match` (30_encoding.md R76). -/
def CmdEntry.hits (e : CmdEntry) (cw : Word) : Bool := (cw &&& e.mask) == e.pattern

/-- The row a TC selects: the first that it hits. Rows 15 and 16 between them hit every TC, so the list never runs out
(R73; `busTable_total` in Laws/Decode.lean); the last row stands for the end of the list. -/
def busRow (tc : BitVec 7) : BusRow :=
  match busTable.find? (fun e => e.hits tc) with
  | some e => e.row
  | none => .wrRsvd

/-- The row a command word selects: the first that it hits. The last row hits every word (R76). -/
def cmdRow (cw : Word) : CmdRow :=
  match cmdTable.find? (fun e => e.hits cw) with
  | some e => e.row
  | none => .cmdRsvd

/-- WE, bit 6 of a TC (30_encoding.md R71). -/
def tcWe (tc : BitVec 7) : Bool := tc.getLsbD 6

/-- ADDR, bits 5:0 of a TC (30_encoding.md R71). -/
def tcAddr (tc : BitVec 7) : BitVec 6 := tc.extractLsb' 0 6

/-- IDX4 = ADDR[3:0], the index in the MSG and HEX windows (30_encoding.md R71). -/
def tcIdx4 (tc : BitVec 7) : Fin 16 := (tc.extractLsb' 0 4).toFin

/-- IDX3 = ADDR[2:0], the index in the H window (30_encoding.md R71). -/
def tcIdx3 (tc : BitVec 7) : Fin 8 := (tc.extractLsb' 0 3).toFin

/-- `TC = we ‖ addr` (30_encoding.md R71). -/
def tcOf (we : Bool) (addr : BitVec 6) : BitVec 7 := BitVec.ofBool we ++ addr

/-- OP, bits 3:0 of a command word (30_encoding.md R75). -/
def cwOp (cw : Word) : BitVec 4 := cw.extractLsb' 0 4

/-- RSVD, bits 31:4 of a command word (30_encoding.md R75). -/
def cwRsvd (cw : Word) : BitVec 28 := cw.extractLsb' 4 28

/-- The instruction of a BUS row, its operands taken from the TC's fields and the write data (30_encoding.md R71, R74). -/
def BusRow.instr (tc : BitVec 7) (wdata : Word) : BusRow → Instr
  | .rdId => .rdId
  | .wrId => .wrId wdata
  | .rdCmd => .rdCmd
  | .wrCmd => .wrCmd wdata
  | .rdStatus => .rdStatus
  | .wrStatus => .wrStatus wdata
  | .rdBlkcnt => .rdBlkcnt
  | .wrBlkcnt => .wrBlkcnt wdata
  | .rdMsg => .rdMsg (tcIdx4 tc)
  | .wrMsg => .wrMsg (tcIdx4 tc) wdata
  | .rdH => .rdH (tcIdx3 tc)
  | .wrH => .wrH (tcIdx3 tc) wdata
  | .rdHex => .rdHex (tcIdx4 tc)
  | .wrHex => .wrHex (tcIdx4 tc) wdata
  | .rdRsvd => .rdRsvd (tcAddr tc)
  | .wrRsvd => .wrRsvd (tcAddr tc) wdata

/-- The instruction of a CMD row (30_encoding.md R75). -/
def CmdRow.instr (cw : Word) : CmdRow → Instr
  | .nop => .nop
  | .init => .init
  | .compress => .compress
  | .cmdRsvd => .cmdRsvd cw

/-- The decoder of both formats, total (30_encoding.md R72, R73, R76). -/
def decode : Code → Instr
  | .bus tc wdata => (busRow tc).instr tc wdata
  | .cmd cw => (cmdRow cw).instr cw

/-- The encoder: each row's pattern of 30_encoding.md R72 and R76 with its operand bits filled in. A read carries no data;
its `wdata` is written as 0. -/
def encode : Instr → Code
  | .rdId => .bus 0b0000000#7 0
  | .wrId v => .bus 0b1000000#7 v
  | .rdCmd => .bus 0b0000001#7 0
  | .wrCmd cw => .bus 0b1000001#7 cw
  | .rdStatus => .bus 0b0000010#7 0
  | .wrStatus v => .bus 0b1000010#7 v
  | .rdBlkcnt => .bus 0b0000011#7 0
  | .wrBlkcnt v => .bus 0b1000011#7 v
  | .rdMsg i => .bus (0b001#3 ++ BitVec.ofNat 4 i.val) 0
  | .wrMsg i v => .bus (0b101#3 ++ BitVec.ofNat 4 i.val) v
  | .rdH j => .bus (0b0100#4 ++ BitVec.ofNat 3 j.val) 0
  | .wrH j v => .bus (0b1100#4 ++ BitVec.ofNat 3 j.val) v
  | .rdHex j => .bus (0b011#3 ++ BitVec.ofNat 4 j.val) 0
  | .wrHex j v => .bus (0b111#3 ++ BitVec.ofNat 4 j.val) v
  | .rdRsvd a => .bus (0b0#1 ++ a) 0
  | .wrRsvd a v => .bus (0b1#1 ++ a) v
  | .nop => .cmd 0x00000000#32
  | .init => .cmd 0x00000001#32
  | .compress => .cmd 0x00000002#32
  | .cmdRsvd cw => .cmd cw

/-- The TC by which a code reaches the port: a command word is the data of a write to address 0x01 (30_encoding.md R70). -/
def Code.tc : Code → BitVec 7
  | .bus tc _ => tc
  | .cmd _ => 0x41#7

/-- The write data by which a code reaches the port (30_encoding.md R70). -/
def Code.wdata : Code → Word
  | .bus _ wdata => wdata
  | .cmd cw => cw

/-- A code without what means nothing in it: the data of a read (30_encoding.md R74). -/
def Code.bare : Code → Code
  | .bus tc wdata => .bus tc (if tcWe tc then wdata else 0)
  | .cmd cw => .cmd cw

/-- Why a numeral of the opcode table's numbering is no code of SHA1CE. -/
inductive CodeError where
  /-- Neither 7 (or the byte that holds them) nor 32 bits wide: no format has this width (R70, R82). -/
  | noFormatOfThisWidth (nbits : Nat)
  /-- A bit above the format's width is set. -/
  | bitAboveTheFormat (w : Nat)
  deriving DecidableEq, Repr

/-- The code in the low bits of a numeral of the table's numbering: 32 bits are a command word, else the low 7 bits are a TC
and the write data is 0. -/
def codeOfBits (nbits w : Nat) : Code :=
  if nbits = 32 then .cmd (BitVec.ofNat 32 w) else .bus (BitVec.ofNat 7 w) 0

/-- The code that a numeral of the table's numbering stands for: the BUS rows have 7 bits (one byte, whose bit 7 is 0; the
write data is 0), the CMD rows 32. Log entry 14. -/
def tableCode (nbits w : Nat) : Except CodeError Code :=
  if nbits = 7 ∨ nbits = 8 then
    if w < 2 ^ 7 then .ok (codeOfBits nbits w) else .error (.bitAboveTheFormat w)
  else if nbits = 32 then
    if w < 2 ^ 32 then .ok (codeOfBits nbits w) else .error (.bitAboveTheFormat w)
  else .error (.noFormatOfThisWidth nbits)

/-- The instruction the decoder reads from an opcode-table word. -/
def decodeTableWord (nbits w : Nat) : Option Instr :=
  match tableCode nbits w with
  | .ok c => some (decode c)
  | .error _ => none

end Sys2Proof
end

