-- ==== Sys2Proof/Machine/Commands.lean ====
section
/-! DEFINITION. The four commands a write to CMD carries (44_host_commands.md R174 to R177). -/

namespace Sys2Proof.Machine

/-- NOP (R174): no effect, in any state. -/
def execNop (s : State) : Host.Outcome State Fault Refusal := .next s

/-- INIT (R175): starts a new run, or ErrBusy. -/
def execInit (s : State) : Host.Outcome State Fault Refusal := .next (s.unlessBusy s.startRun)

/-- COMPRESS (R176): hands the block in MSG to the engine, or ErrBusy. -/
def execCompress (s : State) : Host.Outcome State Fault Refusal := .next (s.unlessBusy s.acceptBlock)

/-- CMD_RSVD (R177): ErrCmd in every state, whether BUSY is 0 or 1 (60_exceptions.md R203); the word is not recorded. -/
def execCmdRsvd (_cw : Word) (s : State) : Host.Outcome State Fault Refusal := .next (s.raise .errCmd)

end Sys2Proof.Machine
end

