-- ==== Sys2Proof/Machine/IdCmd.lean ====
section
/-! DEFINITION. The transactions on ID and CMD (44_host_commands.md R170 to R173). -/

namespace Sys2Proof.Machine

/-- RD_ID (R170). -/
def execRdId (s : State) : Host.Outcome State Fault Refusal := .next (s.answer idValue)

/-- WR_ID (R171): ignored. -/
def execWrId (_v : Word) (s : State) : Host.Outcome State Fault Refusal := .next s

/-- RD_CMD (R172): the last command is not readable back. -/
def execRdCmd (s : State) : Host.Outcome State Fault Refusal := .next (s.answer 0)

/-- WR_CMD (R173): the command word is decoded (30_encoding.md R76), before BUSY is looked at (60_exceptions.md R203), and
the command it selects is run at once. -/
def execWrCmd (cw : Word) (s : State) : Host.Outcome State Fault Refusal :=
  match cmdRow cw with
  | .nop => execNop s
  | .init => execInit s
  | .compress => execCompress s
  | .cmdRsvd => execCmdRsvd cw s

end Sys2Proof.Machine
end

