-- ==== Sys2Proof/Machine/Message.lean ====
section
/-! DEFINITION. The transactions on the message buffer (44_host_commands.md R180, R181). -/

namespace Sys2Proof.Machine

/-- RD_MSG (R180): accepted while BUSY = 1. -/
def execRdMsg (i : Fin 16) (s : State) : Host.Outcome State Fault Refusal := .next (s.answer (msgOperand s i))

/-- WR_MSG (R181): `MSG[i] <- v`, or ErrBusy. -/
def execWrMsg (i : Fin 16) (v : Word) (s : State) : Host.Outcome State Fault Refusal :=
  .next (s.unlessBusy (s.writeMsg i v))

end Sys2Proof.Machine
end

