-- ==== Sys2Proof/Machine/Reserved.lean ====
section
/-! DEFINITION. The transactions on reserved addresses (44_host_commands.md R188, R189). In interface version 1 they read 0
(30_encoding.md R79). -/

namespace Sys2Proof.Machine

/-- RD_RSVD (R188). -/
def execRdRsvd (_addr : BitVec 6) (s : State) : Host.Outcome State Fault Refusal := .next (s.answer 0)

/-- WR_RSVD (R189): ignored in every state. -/
def execWrRsvd (_addr : BitVec 6) (_v : Word) (s : State) : Host.Outcome State Fault Refusal := .next s

end Sys2Proof.Machine
end

