-- ==== Sys2Proof/Machine/StatusCount.lean ====
section
/-! DEFINITION. The transactions on STATUS and BLKCNT (44_host_commands.md R178, R179, R182, R187). -/

namespace Sys2Proof.Machine

/-- RD_STATUS (R178): reading clears no bit. -/
def execRdStatus (s : State) : Host.Outcome State Fault Refusal := .next (s.answer s.statusWord)

/-- WR_STATUS (R179): write-1-to-clear of the error bits, also while BUSY = 1. -/
def execWrStatus (v : Word) (s : State) : Host.Outcome State Fault Refusal := .next (s.clearErrors v)

/-- RD_BLKCNT (R182). -/
def execRdBlkcnt (s : State) : Host.Outcome State Fault Refusal := .next (s.answer s.blkcnt)

/-- WR_BLKCNT (R187): ignored; the host cannot preset the counter. -/
def execWrBlkcnt (_v : Word) (s : State) : Host.Outcome State Fault Refusal := .next s

end Sys2Proof.Machine
end

