-- ==== Sys2Proof/Machine/Dispatch.lean ====
section
/-! DEFINITION. The meaning of every instruction, one arm per row of the opcode table. -/

namespace Sys2Proof.Machine

def exec (i : Instr) (s : State) : Host.Outcome State Fault Refusal :=
  match i with
  | .rdId => Sys2Proof.Machine.execRdId s
  | .wrId v => Sys2Proof.Machine.execWrId v s
  | .rdCmd => Sys2Proof.Machine.execRdCmd s
  | .wrCmd cw => Sys2Proof.Machine.execWrCmd cw s
  | .rdStatus => Sys2Proof.Machine.execRdStatus s
  | .wrStatus v => Sys2Proof.Machine.execWrStatus v s
  | .rdBlkcnt => Sys2Proof.Machine.execRdBlkcnt s
  | .wrBlkcnt v => Sys2Proof.Machine.execWrBlkcnt v s
  | .rdMsg k => Sys2Proof.Machine.execRdMsg k s
  | .wrMsg k v => Sys2Proof.Machine.execWrMsg k v s
  | .rdH j => Sys2Proof.Machine.execRdH j s
  | .wrH j v => Sys2Proof.Machine.execWrH j v s
  | .rdHex j => Sys2Proof.Machine.execRdHex j s
  | .wrHex j v => Sys2Proof.Machine.execWrHex j v s
  | .rdRsvd a => Sys2Proof.Machine.execRdRsvd a s
  | .wrRsvd a v => Sys2Proof.Machine.execWrRsvd a v s
  | .nop => Sys2Proof.Machine.execNop s
  | .init => Sys2Proof.Machine.execInit s
  | .compress => Sys2Proof.Machine.execCompress s
  | .cmdRsvd cw => Sys2Proof.Machine.execCmdRsvd cw s

end Sys2Proof.Machine
end

