-- ==== Sys2Proof/Machine/Engine.lean ====
section
/-! DEFINITION. The engine's steps: ROUND (42_compression_rounds.md R138, R139) and FINISH (43_accumulate_and_digest.md R150).
Neither reads the host's inputs, and neither raises anything (60_exceptions.md R200). -/

namespace Sys2Proof.Machine

/-- ROUND, the engine step of round t = T (R138). After round 79, T is 0 again and accumulation is due (R139). -/
def State.engineRound (s : State) : State :=
  let p := schedStep s.win s.t
  { s with
    vars := roundVars s.vars s.t p.1
    win := p.2
    t := if ht : s.t.val < 79 then ⟨s.t.val + 1, by omega⟩ else 0
    phase := if s.t.val < 79 then .round else .finish }

/-- FINISH, the completion step (R150): H, BLKCNT and BUSY change together (20_memory.md R56), and `done` is 1 in the next
cycle (60_exceptions.md R205). DESIGN CHOICE (log entry 25): A..E and WIN keep what the COMPRESS left in them, here and until
the next COMPRESS loads them, where item I3 of 93_implementation_defined.md admits any value. -/
def State.engineFinish (s : State) : State :=
  { s with
    h := accumulate s.h s.vars
    blkcnt := s.blkcnt + 1
    phase := .idle
    done := true }

/-- One step of the engine; it has none while PHASE = IDLE (20_memory.md R60, 60_exceptions.md R215). -/
def State.engineStep (s : State) : State :=
  match s.phase with
  | .idle => s
  | .round => s.engineRound
  | .finish => s.engineFinish

/-- n steps of the engine in a row. -/
def State.engineRun : Nat → State → State
  | 0, s => s
  | n + 1, s => State.engineRun n s.engineStep

end Sys2Proof.Machine
end

