-- ==== Sys2Proof/Machine/Cycle.lean ====
section
/-! DEFINITION. One clock cycle (10_state.md R20, 70_reset_and_hazards.md R230, R245): what the outside world presents in it,
the reset edge, the outputs' values at the edge, the host step and then the engine's steps (20_memory.md R60). -/

namespace Sys2Proof.Machine

/-- A cycle without a transaction (44_host_commands.md R190). -/
def idleCycle (engine : Nat) : Cycle := ⟨false, false, false, 0, 0, engine⟩

/-- A cycle in which the host presents a code (10_state.md R20, 30_encoding.md R70, R71). -/
def cycleOf (c : Code) (engine : Nat) : Cycle := ⟨false, true, tcWe c.tc, tcAddr c.tc, c.wdata, engine⟩

/-- The code on the port in a cycle with sel = 1: `TC = we ‖ addr`, and wdata (30_encoding.md R70, R71). -/
def Cycle.code (c : Cycle) : Code := .bus (tcOf c.we c.addr) c.wdata

/-- The transaction a cycle presents and the machine samples: none with sel = 0 (44_host_commands.md R190), and none that has
an effect with rst = 1 (70_reset_and_hazards.md R230). -/
def Cycle.presents (c : Cycle) : Option Code := if c.sel && !c.rst then some c.code else none

/-- The cycle the outside world drives now. When the list is used up the host stays idle and the engine takes one step per
cycle, so that it is fair (70_reset_and_hazards.md R246; log entry 3). -/
def State.now (s : State) : Cycle :=
  match s.cycles with
  | [] => idleCycle 1
  | c :: _ => c

/-- The state at a reset edge: every piece of state takes its reset value, whatever is presented (70_reset_and_hazards.md
R230, R232). The model's own fields go on. -/
def State.resetEdge (s : State) : State :=
  { State.reset with cycles := s.cycles.tail, freeNext := s.freeNext }

/-- What an ordinary edge does to the outputs before the cycle's steps set them: `done` falls (60_exceptions.md R205) and
`rdata` is any value unless the cycle's transaction is a read (44_host_commands.md R190, item I11; log entry 5). -/
def State.beginCycle (s : State) : State :=
  { s with
    cycles := s.cycles.tail
    rdata := Config.freeRdata s.freeNext
    freeNext := s.freeNext + 1
    done := false }

/-- How many steps the engine takes at the cycle's edge: those of the schedule, if a COMPRESS is in flight before the edge.
The accepting edge itself takes none: BUSY is 1 from it (44_host_commands.md R176, 70_reset_and_hazards.md R248; log entry 4).
-/
def State.engineShare (s : State) : Nat :=
  match s.phase with
  | .idle => 0
  | .round => s.now.engine
  | .finish => s.now.engine

/-- The host step of the cycle: the transaction presented, decoded and run, or none in an idle cycle (44_host_commands.md
R190). -/
def hostStep (c : Cycle) (s : State) : Host.Outcome State Fault Refusal :=
  match c.presents with
  | some code => exec (decode code) s
  | none => .next s

/-- One clock cycle, closed by a rising edge. A reset edge overrides everything (R230); else the host step comes first and
the engine's steps follow (20_memory.md R60). -/
def runCycle (s : State) : Host.Outcome State Fault Refusal :=
  if s.now.rst then .next s.resetEdge
  else
    match hostStep s.now s.beginCycle with
    | .next t => .next (State.engineRun s.engineShare t)
    | .fault r => .fault r
    | .refused r => .refused r

end Sys2Proof.Machine
end

