-- ==== Sys2Proof/Machine/Step.lean ====
section
/-! DEFINITION. The step of the machine, one clock cycle, and how an instruction is put before it. -/

namespace Sys2Proof.Machine

/-- One step: the cycle at the head of `cycles` (log entry 1). -/
def step (s : State) : Host.Outcome State Fault Refusal := runCycle s

/-- `s` with a cycle put first in which the host presents the instruction of an opcode-table word, and in which the engine
takes no step: the very next step runs exactly that instruction. A BUS word is the TC, with write data 0; a CMD word is the
data of a write to CMD (30_encoding.md R70). Log entry 13. -/
def State.withFetchWord (s : State) (nbits w : Nat) : State :=
  { s with cycles := cycleOf (codeOfBits nbits w) 0 :: s.cycles }

end Sys2Proof.Machine
end

