-- ==== Sys2Proof/Machine/Format.lean ====
section
/-! DEFINITION. The host's message formatter and the digest of a message (40_message_formatting.md): padding, block split,
block words and the fold over the blocks. These are functions of the host, not of the hardware (00_scope.md R6). -/

namespace Sys2Proof.Machine

/-- `bytes_be(v, n)`, most significant byte first (00_scope.md R16), for v below 256^n. -/
def bytesBe (v : Nat) : Nat → List Byte
  | 0 => []
  | n + 1 => BitVec.ofNat 8 (v / 256 ^ n) :: bytesBe v n

/-- `word_be(b0, b1, b2, b3)`, b0 in bits 31..24 (00_scope.md R16, 20_memory.md R50). -/
def wordBe (b0 b1 b2 b3 : Byte) : Word := b0 ++ b1 ++ b2 ++ b3

/-- Z(L) = (55 - (L mod 64)) mod 64, with a result in 0..63 for a negative operand too (R102). -/
def padZeros (len : Nat) : Nat := ((55 - ((len % 64 : Nat) : Int)) % 64).toNat

/-- The value of the 64-bit length field: the bit length 8 × L, which fits for L up to MAX_MESSAGE_BYTES (R103, R107). DESIGN
CHOICE (log entry 24): for a longer message, out of the formatter's domain, the field is a free value, since the source leaves
it open (91_not_in_source.md N6). -/
def bitLength (len : Nat) : Nat :=
  if len ≤ Config.maxMessageBytes then 8 * len else (Config.freeLengthField len).toNat

/-- LENF(L), the bit length as 8 bytes, most significant first (R103). Past MAX_MESSAGE_BYTES nothing is said of its bytes
(log entry 24). -/
def lengthField (len : Nat) : List Byte := bytesBe (bitLength len) 8

/-- PAD(m) (R101). For a message longer than MAX_MESSAGE_BYTES, which only `formatMessage` refuses (R107), its last 8 bytes are
the free value of log entry 24. -/
def pad (m : List Byte) : List Byte :=
  m ++ [0x80#8] ++ List.replicate (padZeros m.length) 0x00#8 ++ lengthField m.length

/-- The consecutive 64-byte chunks of the padded bytes, in order (R105). -/
def splitBlocks (p : List Byte) : List (List Byte) :=
  (List.range (p.length / 64)).map fun j => (p.drop (64 * j)).take 64

/-- words(B) of a 64-byte block (R110). -/
def blockWords (b : List Byte) : Vector Word 16 :=
  Vector.ofFn fun i => wordBe (b.getD (4 * i.val) 0) (b.getD (4 * i.val + 1) 0) (b.getD (4 * i.val + 2) 0)
    (b.getD (4 * i.val + 3) 0)

/-- Why the formatter refuses a message. -/
inductive FormatError where
  /-- longer than MAX_MESSAGE_BYTES (R107; log entry 16) -/
  | messageTooLong
  deriving DecidableEq, Repr

/-- The blocks the host feeds for a message, as words; none for a message the formatter refuses (R105, R107, R110). -/
def formatMessage (m : List Byte) : Except FormatError (List (Vector Word 16)) :=
  if m.length ≤ Config.maxMessageBytes then .ok ((splitBlocks (pad m)).map blockWords)
  else .error .messageTooLong

/-- SHA1(m): the fold of the blocks from IV, rendered as 40 characters (R108). -/
def sha1 (m : List Byte) : Except FormatError (List Byte) :=
  match formatMessage m with
  | .ok blocks => .ok (hexStr (blocks.foldl hashBlock iv))
  | .error e => .error e

end Sys2Proof.Machine
end

