-- ==== Sys2Proof/Machine/HostSide.lean ====
section
/-! DEFINITION. The host's assembly: register names, transactions and pseudo-instructions (30_encoding.md R83 to R85), as the
codes the host presents. POLL is a loop of the host: how often it reads depends on the values it reads (`pollEnds`; log entry 20). -/

namespace Sys2Proof.Machine

/-- Register names, and a numeric word address `@0xNN` (R83). -/
inductive RegName where
  | id
  | cmd
  | status
  | blkcnt
  | msg (i : Fin 16)
  | h (k : Fin 5)
  | hex (j : Fin 10)
  | numeric (addr : BitVec 6)
  deriving DecidableEq, Repr

/-- The word address a register name stands for (10_state.md R38, R83). -/
def RegName.addr : RegName → BitVec 6
  | .id => 0x00
  | .cmd => 0x01
  | .status => 0x02
  | .blkcnt => 0x03
  | .msg i => BitVec.ofNat 6 (0x10 + i.val)
  | .h k => BitVec.ofNat 6 (0x20 + k.val)
  | .hex j => BitVec.ofNat 6 (0x30 + j.val)
  | .numeric a => a

/-- `RD <reg>`, the host's MemRead (R84, 00_scope.md R14). -/
def rd (r : RegName) : Code := .bus (tcOf false r.addr) 0

/-- `WR <reg>, v`, the host's MemWrite (R84, 00_scope.md R14). -/
def wr (r : RegName) (v : Word) : Code := .bus (tcOf true r.addr) v

/-- `CMD NOP` (R84). -/
def cmdNop : Code := wr .cmd 0x00000000#32

/-- `CMD INIT` (R84). -/
def cmdInit : Code := wr .cmd 0x00000001#32

/-- `CMD COMPRESS` (R84). -/
def cmdCompress : Code := wr .cmd 0x00000002#32

/-- POLL's test of a value read from STATUS: it reads again while bit 0 is 1 (R85). -/
def pollAgain (v : Word) : Bool := v.getLsbD 0

/-- Whether a host that reads the values `vs` from STATUS, one after the other, has then carried out exactly one POLL: "repeat
`RD STATUS` until the value read has bit 0 = 0" (R85). It reads at least once, and never after the first value with bit 0 = 0.
-/
def pollEnds : List Word → Bool
  | [] => false
  | v :: vs => if pollAgain v then pollEnds vs else vs.isEmpty

/-- The transactions of a `POLL` that comes to read STATUS n times (R85); `pollEnds` says of the values read whether it does.
-/
def poll (n : Nat) : List Code := List.replicate n (rd .status)

/-- `CLRERR` (R85). -/
def clrErr : Code := wr .status 0x00000006#32

/-- `LOADBLK w0, ..., w15`, in index order (R85). -/
def loadBlk (w : Vector Word 16) : List Code := (List.finRange 16).map fun i => wr (.msg i) w[i]

/-- The transactions of a `HASHBLK w0, ..., w15` whose POLL comes to read STATUS n times (R85). -/
def hashBlk (w : Vector Word 16) (n : Nat) : List Code := loadBlk w ++ [cmdCompress] ++ poll n

/-- `RDDIG` (R85). -/
def rdDig : List Code := (List.finRange 5).map fun k => rd (.h k)

/-- `RDHEX` (R85). -/
def rdHex : List Code := (List.finRange 10).map fun j => rd (.hex j)

end Sys2Proof.Machine
end

