-- ==== Sys2Proof/Safety.lean ====
section
/-! DEFINITION. The terms claims are stated in: what a run is, the invariant that ties a COMPRESS in flight to the block it
compresses, and the host's protocol for a message (40_message_formatting.md R109). -/

namespace Sys2Proof.Machine

/-- The schedule words the window holds before round t of a block w (41_message_schedule.md R123): W[u] is in WIN[u mod 16]
for every u with max(0, t - 16) ≤ u < max(16, t). -/
def WindowHolds (w win : Vector Word 16) (t : Nat) : Prop :=
  ∀ u : Fin 80, t - 16 ≤ u.val → u.val < max 16 t → win[u.val % 16] = scheduleWord w u

/-- The engine is on course: while a COMPRESS is in flight, the working variables are those of CF of H and MSG after the
rounds done so far, and the window holds the words the coming rounds need (42_compression_rounds.md R138 to R140). T is 0
outside the rounds (R138, 10_state.md R37). -/
def EngineOnCourse (s : State) : Prop :=
  match s.phase with
  | .idle => s.t = 0
  | .round =>
    s.vars = cfRounds (Vars.ofHash s.h) (schedule s.msg) s.t.val ∧ WindowHolds s.msg s.win s.t.val
  | .finish => s.t = 0 ∧ s.vars = cf (Vars.ofHash s.h) s.msg

/-- The machine runs the cycles `cs`, in none of which rst is 1, and so comes from s to t. -/
def Runs (s : State) (cs : List Cycle) (t : State) : Prop :=
  (∀ c ∈ cs, c.rst = false) ∧ (∃ rest, s.cycles = cs ++ rest) ∧
    Host.Core.run Sys2Proof.core cs.length s = .next t

/-- The host presents exactly the codes `codes`, in order, with idle cycles and the engine's steps anywhere among them, and
the machine so comes from s to t. Every interleaving is one such run (20_memory.md R60). What a read cycle carries on wdata
makes no difference (30_encoding.md R74). -/
def Plays (s : State) (codes : List Code) (t : State) : Prop :=
  ∃ cs, Runs s cs t ∧ (cs.filterMap Cycle.presents).map Code.bare = codes.map Code.bare

/-- One listed cycle with rst = 0 in which the host presents `p` (none: no transaction) takes the machine from s to t. -/
def CycleRuns (s : State) (p : Option Code) (t : State) : Prop :=
  ∃ c rest, s.cycles = c :: rest ∧ c.rst = false ∧ c.presents.map Code.bare = p.map Code.bare ∧ step s = .next t

/-- The host presents exactly the codes of `l`, in order, with idle cycles and the engine's steps anywhere among them, finds on
rdata in the cycle after each code the word that stands beside it in `l` (70_reset_and_hazards.md R245), and the machine so
comes from s to t. -/
inductive Observes : State → List (Code × Word) → State → Prop where
  | done (s : State) : Observes s [] s
  | idle {s t u : State} {l : List (Code × Word)} (cycle : CycleRuns s none t) (rest : Observes t l u) : Observes s l u
  | code {s t u : State} {c : Code} {l : List (Code × Word)} (cycle : CycleRuns s (some c) t) (rest : Observes t l u) :
      Observes s ((c, t.rdata) :: l) u

/-- The host carries out POLL: it repeats RD STATUS until the value read has bit 0 = 0 (30_encoding.md R85). That the host's
loop is a condition on the values a run reads is log entry 20. -/
def Polls (s t : State) : Prop :=
  ∃ vs : List Word, pollEnds vs = true ∧ Observes s (vs.map fun v => (rd .status, v)) t

/-- The host carries out HASHBLK: LOADBLK, CMD COMPRESS, POLL (30_encoding.md R85). -/
def RunsHashBlk (s : State) (w : Vector Word 16) (t : State) : Prop :=
  ∃ u, Plays s (loadBlk w ++ [cmdCompress]) u ∧ Polls u t

/-- The host has fed the blocks `ws`, each by HASHBLK (30_encoding.md R85, 40_message_formatting.md R109). -/
inductive FeedsBlocks : State → List (Vector Word 16) → State → Prop where
  | done (s : State) : FeedsBlocks s [] s
  | block {s t u : State} {w : Vector Word 16} {ws : List (Vector Word 16)}
      (block : RunsHashBlk s w t) (rest : FeedsBlocks t ws u) : FeedsBlocks s (w :: ws) u

/-- No bit is set that the spec reads as 0 and no register differs from s's, but for the port's outputs and the model's own
fields: the two states are equal in everything a register holds. -/
def SameRegisters (s t : State) : Prop :=
  t.h = s.h ∧ t.vars = s.vars ∧ t.msg = s.msg ∧ t.win = s.win ∧ t.phase = s.phase ∧ t.t = s.t ∧
    t.errBusy = s.errBusy ∧ t.errCmd = s.errCmd ∧ t.blkcnt = s.blkcnt

end Sys2Proof.Machine
end

