-- ==== Sys2Proof/Certificates/Slice0/Obligations.lean ====
section
/-! DEFINITION. The statements for the provers. Each cites the rules of spec/ it formalises; OBLIGATIONS.json lists them. -/

open Sys2Proof Sys2Proof.Machine

/-- R72, row by row, written out from the table's TC patterns. -/
def Obligations.BusDecodeRows : Prop :=
  ∀ v : Word,
    (decode (.bus 0x00#7 v) = .rdId ∧ decode (.bus 0x40#7 v) = .wrId v) ∧
    (decode (.bus 0x01#7 v) = .rdCmd ∧ decode (.bus 0x41#7 v) = .wrCmd v) ∧
    (decode (.bus 0x02#7 v) = .rdStatus ∧ decode (.bus 0x42#7 v) = .wrStatus v) ∧
    (decode (.bus 0x03#7 v) = .rdBlkcnt ∧ decode (.bus 0x43#7 v) = .wrBlkcnt v) ∧
    (∀ i : Fin 16, decode (.bus (0x10#7 + BitVec.ofNat 7 i.val) v) = .rdMsg i ∧
      decode (.bus (0x50#7 + BitVec.ofNat 7 i.val) v) = .wrMsg i v) ∧
    (∀ j : Fin 8, decode (.bus (0x20#7 + BitVec.ofNat 7 j.val) v) = .rdH j ∧
      decode (.bus (0x60#7 + BitVec.ofNat 7 j.val) v) = .wrH j v) ∧
    (∀ j : Fin 16, decode (.bus (0x30#7 + BitVec.ofNat 7 j.val) v) = .rdHex j ∧
      decode (.bus (0x70#7 + BitVec.ofNat 7 j.val) v) = .wrHex j v) ∧
    (∀ a : BitVec 6, (0x04#6 ≤ a ∧ a ≤ 0x0F#6) ∨ (0x28#6 ≤ a ∧ a ≤ 0x2F#6) →
      decode (.bus (tcOf false a) v) = .rdRsvd a ∧ decode (.bus (tcOf true a) v) = .wrRsvd a v)

/-- R76, with the reserved words characterised by the fields OP and RSVD. -/
def Obligations.CmdDecodeRows : Prop :=
  decode (.cmd 0x00000000#32) = .nop ∧ decode (.cmd 0x00000001#32) = .init ∧
    decode (.cmd 0x00000002#32) = .compress ∧
    ∀ cw : Word, decode (.cmd cw) = .cmdRsvd cw ↔ (3#4 ≤ cwOp cw ∨ cwRsvd cw ≠ 0#28)

/-- Round trip over all 20 constructors: no bit of an encoding is dropped. -/
def Obligations.DecodeOfEncode : Prop :=
  ∀ i : Instr, WellFormed i → decode (encode i) = i

/-- The other direction of the round trip: no code is illegal (R73, R76), no fall-back row takes a code of another row, and no two codes share an instruction but for a read's data. That the encoder writes a read's data as 0 is the model's choice (log entry 14). -/
def Obligations.EncodeOfDecode : Prop :=
  (∀ c : Code, WellFormed (decode c)) ∧ (∀ cw : Word, encode (decode (.cmd cw)) = .cmd cw) ∧
    ∀ (tc : BitVec 7) (v : Word), encode (decode (.bus tc v)) = .bus tc (if tcWe tc then v else 0#32)

/-- Sanity: the codes and rows are those of the spec's own table. THE MODEL'S CHOICE (log entry 14, DESIGN CHOICE): a TC is the low 7 bits of a byte, and the data of a write row is 0, which is where the operands 0 of wrCmd, wrStatus, wrMsg, wrH, wrRsvd and wrHex come from. -/
def Obligations.SpecWordsDecode : Prop :=
  decodeTableWord 8 0x00 = some .rdId ∧ decodeTableWord 8 0x04 = some (.rdRsvd 0x04#6) ∧
    decodeTableWord 8 0x1F = some (.rdMsg 15) ∧ decodeTableWord 8 0x25 = some (.rdH 5) ∧
    decodeTableWord 8 0x2F = some (.rdRsvd 0x2F#6) ∧ decodeTableWord 8 0x3A = some (.rdHex 10) ∧
    decodeTableWord 8 0x41 = some (.wrCmd 0) ∧ decodeTableWord 8 0x42 = some (.wrStatus 0) ∧
    decodeTableWord 8 0x50 = some (.wrMsg 0 0) ∧ decodeTableWord 8 0x60 = some (.wrH 0 0) ∧
    decodeTableWord 8 0x68 = some (.wrRsvd 0x28#6 0) ∧ decodeTableWord 8 0x7F = some (.wrHex 15 0) ∧
    decodeTableWord 32 0x00000000 = some .nop ∧ decodeTableWord 32 0x00000001 = some .init ∧
    decodeTableWord 32 0x00000002 = some .compress ∧
    decodeTableWord 32 0x00000003 = some (.cmdRsvd 0x00000003#32) ∧
    decodeTableWord 32 0x0000000F = some (.cmdRsvd 0x0000000F#32) ∧
    decodeTableWord 32 0x00000010 = some (.cmdRsvd 0x00000010#32) ∧
    decodeTableWord 32 0x80000001 = some (.cmdRsvd 0x80000001#32)

/-- Host step first, then the engine (R60). The state exec sees is spelled out; THE MODEL'S CHOICE: the cycle is taken off the list (log entry 1, DESIGN CHOICE), rdata starts as the free value at freeNext, which goes up by 1 (log entry 5, DESIGN CHOICE), and the engine's share is the schedule's only while a COMPRESS is in flight (log entries 2 and 4). -/
def Obligations.StepRunsPresentedInstruction : Prop :=
  ∀ (s t : State) (c : Cycle) (rest : List Cycle),
    s.cycles = c :: rest → c.rst = false → c.sel = true →
    exec (decode (.bus (tcOf c.we c.addr) c.wdata))
      { s with cycles := rest, rdata := Config.freeRdata s.freeNext, freeNext := s.freeNext + 1, done := false } = .next t →
    step s = .next (State.engineRun (if s.busy then c.engine else 0) t)

/-- R190. THE MODEL'S CHOICE: the cycle is taken off the list (log entry 1, DESIGN CHOICE), rdata is the free value at freeNext, which goes up by 1 (log entry 5, DESIGN CHOICE), and the engine takes the schedule's number of steps, the model's form of the open latency (log entry 2). -/
def Obligations.IdleCycleHasNoHostStep : Prop :=
  ∀ (s : State) (c : Cycle) (rest : List Cycle),
    s.cycles = c :: rest → c.rst = false → c.sel = false →
    step s = .next (State.engineRun (if s.busy then c.engine else 0)
      { s with cycles := rest, rdata := Config.freeRdata s.freeNext, freeNext := s.freeNext + 1, done := false })

/-- R230 and R231 over the reset values of R37; the state may have a COMPRESS in flight (R232). THE MODEL'S CHOICE (log entries 1 and 22, DESIGN CHOICE): the last clause, that the cycles to come stay. Nothing is said of A..E and WIN (log entries 6 and 7). -/
def Obligations.ResetEdgeFromAnyState : Prop :=
  ∀ (s : State) (c : Cycle) (rest : List Cycle), s.cycles = c :: rest → c.rst = true →
    ∃ t, step s = .next t ∧
      t.h = #v[0x67452301#32, 0xEFCDAB89#32, 0x98BADCFE#32, 0x10325476#32, 0xC3D2E1F0#32] ∧
      (∀ i : Fin 16, t.msg[i] = 0#32) ∧ t.phase = .idle ∧ t.busy = false ∧ t.t = 0 ∧ t.errBusy = false ∧
      t.errCmd = false ∧ t.blkcnt = 0#32 ∧ t.rdata = 0#32 ∧ t.done = false ∧ t.cycles = rest

/-- R37, every row with a value; its two 'unspecified' rows constrain nothing. -/
def Obligations.ResetStateValues : Prop :=
  State.reset.h[0] = 0x67452301#32 ∧ State.reset.h[1] = 0xEFCDAB89#32 ∧ State.reset.h[2] = 0x98BADCFE#32 ∧
    State.reset.h[3] = 0x10325476#32 ∧ State.reset.h[4] = 0xC3D2E1F0#32 ∧
    (∀ i : Fin 16, State.reset.msg[i] = 0#32) ∧
    romK[0] = 0x5A827999#32 ∧ romK[1] = 0x6ED9EBA1#32 ∧ romK[2] = 0x8F1BBCDC#32 ∧ romK[3] = 0xCA62C1D6#32 ∧
    State.reset.phase = .idle ∧ State.reset.t.val = 0 ∧ State.reset.statusWord = 0#32 ∧ State.reset.blkcnt = 0#32 ∧
    idValue = 0x53484131#32 ∧ State.reset.rdata = 0#32 ∧ State.reset.busy = false ∧ State.reset.done = false

/-- The whole next state of five reads: rdata is the answer, and every other field is as it was (their frame). -/
def Obligations.PlainReadsAnswer : Prop :=
  ∀ s : State,
    exec .rdId s = .next { s with rdata := 0x53484131#32 } ∧
    exec .rdCmd s = .next { s with rdata := 0x00000000#32 } ∧
    (∀ i : Fin 16, exec (.rdMsg i) s = .next { s with rdata := s.msg[i] }) ∧
    exec .rdBlkcnt s = .next { s with rdata := s.blkcnt } ∧
    ∀ a : BitVec 6, (0x04#6 ≤ a ∧ a ≤ 0x0F#6) ∨ (0x28#6 ≤ a ∧ a ≤ 0x2F#6) →
      exec (.rdRsvd a) s = .next { s with rdata := 0x00000000#32 }

/-- R178, bit by bit, with BUSY read off PHASE (R29). -/
def Obligations.StatusReadBits : Prop :=
  ∀ s : State, ∃ w : Word, exec .rdStatus s = .next { s with rdata := w } ∧
    (w.getLsbD 0 = true ↔ s.phase ≠ .idle) ∧ w.getLsbD 1 = s.errBusy ∧ w.getLsbD 2 = s.errCmd ∧
    ∀ k : Nat, 3 ≤ k → w.getLsbD k = false

/-- R183 and R185 with their holes; HEX[j] is R154's word (stated in HexWordsRenderHash). -/
def Obligations.HashAndHexReadsAnswer : Prop :=
  ∀ s : State,
    (∀ j : Fin 8, exec (.rdH j) s = .next { s with rdata := if hj : j.val ≤ 4 then s.h[j.val] else 0#32 }) ∧
    ∀ j : Fin 16, exec (.rdHex j) s =
      .next { s with rdata := if hj : j.val ≤ 9 then hexWord s.h ⟨j.val, by omega⟩ else 0#32 }

/-- The frame of the six instructions is everything. -/
def Obligations.IgnoredWritesChangeNothing : Prop :=
  ∀ (s : State) (v : Word),
    exec (.wrId v) s = .next s ∧ exec (.wrBlkcnt v) s = .next s ∧ (∀ j : Fin 8, exec (.wrH j v) s = .next s) ∧
    (∀ j : Fin 16, exec (.wrHex j v) s = .next s) ∧
    (∀ a : BitVec 6, (0x04#6 ≤ a ∧ a ≤ 0x0F#6) ∨ (0x28#6 ≤ a ∧ a ≤ 0x2F#6) → exec (.wrRsvd a v) s = .next s) ∧
    exec .nop s = .next s

/-- R179 as a whole next state; bits 0 and 31..3 of v do not occur in it. -/
def Obligations.StatusWriteClearsOnes : Prop :=
  ∀ (s : State) (v : Word), exec (.wrStatus v) s = .next
    { s with
      errBusy := if v.getLsbD 1 = true then false else s.errBusy
      errCmd := if v.getLsbD 2 = true then false else s.errCmd }

/-- R181, accepted and rejected, with its frame through the register map. -/
def Obligations.MessageWrite : Prop :=
  ∀ (s : State) (i : Fin 16) (v : Word),
    (s.phase = .idle → ∃ t, exec (.wrMsg i v) s = .next t ∧ t.msg[i] = v ∧
      (∀ k : Fin 16, k ≠ i → t.msg[k] = s.msg[k]) ∧ t = { s with msg := t.msg } ∧
      ∀ a : BitVec 6, a.toNat ≠ 0x10 + i.val → t.regMap a = s.regMap a) ∧
    (s.phase ≠ .idle → exec (.wrMsg i v) s = .next { s with errBusy := true })

/-- R175, accepted and rejected. -/
def Obligations.InitStartsRun : Prop :=
  ∀ s : State,
    (s.phase = .idle → exec .init s = .next
      { s with
        h := #v[0x67452301#32, 0xEFCDAB89#32, 0x98BADCFE#32, 0x10325476#32, 0xC3D2E1F0#32]
        blkcnt := 0#32 }) ∧
    (s.phase ≠ .idle → exec .init s = .next { s with errBusy := true })

/-- R176, accepted and rejected, with the 80 ROUND steps and the FINISH step the rule announces. -/
def Obligations.CompressHandsBlockToEngine : Prop :=
  ∀ s : State,
    (s.phase = .idle →
      let t : State := { s with vars := ⟨s.h[0], s.h[1], s.h[2], s.h[3], s.h[4]⟩, win := s.msg, t := 0, phase := .round }
      exec .compress s = .next t ∧ t.busy = true ∧ (State.engineRun 80 t).phase = .finish ∧
        (State.engineRun 81 t).phase = .idle) ∧
    (s.phase ≠ .idle → exec .compress s = .next { s with errBusy := true })

/-- R177 and R202: the effect is the recorded error. The instruction completes; it has no other effect to have. -/
def Obligations.ReservedCommandSetsErrCmd : Prop :=
  ∀ (s : State) (cw : Word), cw ≠ 0#32 → cw ≠ 1#32 → cw ≠ 2#32 →
    exec (.cmdRsvd cw) s = .next { s with errCmd := true } ∧
    exec (.wrCmd cw) s = .next { s with errCmd := true }

/-- R173 with the four outcomes written out; the reserved check comes before the busy check. -/
def Obligations.WrCmdRunsSelectedCommand : Prop :=
  ∀ (s : State) (v : Word),
    exec (.wrCmd v) s = exec (decode (.cmd v)) s ∧
    (v = 0#32 → exec (.wrCmd v) s = .next s) ∧
    (v = 1#32 → s.phase = .idle → exec (.wrCmd v) s = .next { s with h := iv, blkcnt := 0#32 }) ∧
    (v = 2#32 → s.phase = .idle → exec (.wrCmd v) s = .next
      { s with vars := ⟨s.h[0], s.h[1], s.h[2], s.h[3], s.h[4]⟩, win := s.msg, t := 0, phase := .round }) ∧
    (v = 1#32 ∨ v = 2#32 → s.phase ≠ .idle → exec (.wrCmd v) s = .next { s with errBusy := true }) ∧
    (v ≠ 0#32 → v ≠ 1#32 → v ≠ 2#32 → exec (.wrCmd v) s = .next { s with errCmd := true })

/-- 'No behaviour of this spec is stuck', and no transaction or command can stop SHA1CE. -/
def Obligations.NoStepStops : Prop :=
  ∀ s : State, ∃ t, step s = .next t

/-- R38, its access column too, as one reading of the whole address space, against the decoder and the meanings. -/
def Obligations.RegisterMapAccess : Prop :=
  ∀ (s : State) (a : BitVec 6) (v : Word),
    (∃ w, exec (decode (.bus (tcOf false a) v)) s = .next { s with rdata := w } ∧
      (a.toNat = 0x00 → w = 0x53484131#32) ∧ (a.toNat = 0x01 → w = 0#32) ∧ (a.toNat = 0x02 → w = s.statusWord) ∧
      (a.toNat = 0x03 → w = s.blkcnt) ∧ (0x04 ≤ a.toNat → a.toNat ≤ 0x0F → w = 0#32) ∧
      (∀ i : Fin 16, a.toNat = 0x10 + i.val → w = s.msg[i]) ∧ (∀ k : Fin 5, a.toNat = 0x20 + k.val → w = s.h[k]) ∧
      (0x25 ≤ a.toNat → a.toNat ≤ 0x2F → w = 0#32) ∧ (∀ j : Fin 10, a.toNat = 0x30 + j.val → w = hexWord s.h j) ∧
      (0x3A ≤ a.toNat → w = 0#32) ∧ w = s.regMap a) ∧
    (a.toNat = 0x00 ∨ (0x03 ≤ a.toNat ∧ a.toNat ≤ 0x0F) ∨ 0x20 ≤ a.toNat →
      exec (decode (.bus (tcOf true a) v)) s = .next s) ∧
    (a.toNat = 0x01 → decode (.bus (tcOf true a) v) = .wrCmd v) ∧
    (a.toNat = 0x02 → exec (decode (.bus (tcOf true a) v)) s = .next
      { s with
        errBusy := if v.getLsbD 1 = true then false else s.errBusy
        errCmd := if v.getLsbD 2 = true then false else s.errCmd }) ∧
    (∀ i : Fin 16, a.toNat = 0x10 + i.val → s.phase = .idle →
      exec (decode (.bus (tcOf true a) v)) s = .next { s with msg := s.msg.set i v }) ∧
    byteOffset a = 4 * a.toNat

/-- Every address outside those an instruction names reads after it as before it. -/
def Obligations.RegisterMapFrame : Prop :=
  ∀ (i : Instr) (s t : State), exec i s = .next t → ∀ a : BitVec 6, t.regMap a ≠ s.regMap a →
    (a = 0x02#6 ∧ ((∃ v, i = .wrStatus v) ∨ (∃ v, i = .wrCmd v) ∨ (∃ k v, i = .wrMsg k v) ∨ i = .init ∨ i = .compress ∨
      ∃ v, i = .cmdRsvd v)) ∨
    (∃ k v, i = .wrMsg k v ∧ a.toNat = 0x10 + k.val) ∨
    ((i = .init ∨ i = .wrCmd 1#32) ∧
      (a = 0x03#6 ∨ (0x20 ≤ a.toNat ∧ a.toNat ≤ 0x24) ∨ (0x30 ≤ a.toNat ∧ a.toNat ≤ 0x39)))

/-- The frame of every instruction over the internal state. cycles and freeNext are the model's own fields (log entries 1 and 5). -/
def Obligations.HostStepsKeepEngineRegisters : Prop :=
  ∀ (i : Instr) (s t : State), exec i s = .next t →
    (t.done = s.done ∧ t.cycles = s.cycles ∧ t.freeNext = s.freeNext) ∧
    ((t.vars = s.vars ∧ t.win = s.win ∧ t.phase = s.phase ∧ t.t = s.t) ∨
      (s.phase = .idle ∧ (i = .compress ∨ i = .wrCmd 2#32)))

/-- 'Only three events write them': the host cannot write H (R21). A WR_H in particular cannot. -/
def Obligations.HashStateChangesOnlyBy : Prop :=
  ∀ s t : State, step s = .next t → t.h ≠ s.h →
    s.now.rst = true ∨
    (s.busy = false ∧ ∃ c, s.now.presents = some c ∧ decode c = .wrCmd 1#32) ∨
    (s.busy = true ∧ t.busy = false ∧ t.done = true)

/-- The setters and the clearers of the two sticky bits, over every step. -/
def Obligations.ErrorBitsChangeOnlyBy : Prop :=
  ∀ s t : State, step s = .next t →
    (s.errBusy = false → t.errBusy = true → s.now.rst = false ∧ s.busy = true ∧ ∃ c, s.now.presents = some c ∧
      ((∃ k v, decode c = .wrMsg k v) ∨ decode c = .wrCmd 1#32 ∨ decode c = .wrCmd 2#32)) ∧
    (s.errCmd = false → t.errCmd = true → s.now.rst = false ∧ ∃ c cw, s.now.presents = some c ∧
      decode c = .wrCmd cw ∧ cw ≠ 0#32 ∧ cw ≠ 1#32 ∧ cw ≠ 2#32) ∧
    (s.errBusy = true → t.errBusy = false → s.now.rst = true ∨ ∃ c v, s.now.presents = some c ∧
      decode c = .wrStatus v ∧ v.getLsbD 1 = true) ∧
    (s.errCmd = true → t.errCmd = false → s.now.rst = true ∨ ∃ c v, s.now.presents = some c ∧
      decode c = .wrStatus v ∧ v.getLsbD 2 = true)

/-- 'BUSY is written only by the engine: set by acceptance of COMPRESS, cleared by its completion and by reset.' -/
def Obligations.BusyChangesOnlyBy : Prop :=
  ∀ s t : State, step s = .next t →
    ((s.busy = false ∧ t.busy = true) ↔
      (s.now.rst = false ∧ s.busy = false ∧ ∃ c, s.now.presents = some c ∧ decode c = .wrCmd 2#32)) ∧
    (s.busy = true → t.busy = false → s.now.rst = true ∨ t.done = true)

/-- R205: one cycle, at the edge of each FINISH step, and nowhere else. -/
def Obligations.DonePulse : Prop :=
  (∀ s t : State, step s = .next t → (t.done = true ↔ (s.now.rst = false ∧ s.busy = true ∧ t.busy = false))) ∧
    ∀ s t u : State, step s = .next t → step t = .next u → t.done = true → u.done = false

/-- R27, as the counter's next value in every step. -/
def Obligations.BlockCounterCounts : Prop :=
  (∀ s t : State, step s = .next t →
      (s.now.rst = true → t.blkcnt = 0#32) ∧
      (s.now.rst = false → s.busy = false → (∃ c, s.now.presents = some c ∧ decode c = .wrCmd 1#32) → t.blkcnt = 0#32) ∧
      (s.now.rst = false → s.busy = true → t.busy = false → t.blkcnt = s.blkcnt + 1#32) ∧
      (s.now.rst = false → (s.busy = true → t.busy = true) →
        ¬(s.busy = false ∧ ∃ c, s.now.presents = some c ∧ decode c = .wrCmd 1#32) → t.blkcnt = s.blkcnt)) ∧
    ∀ (s : State) (v : Word), exec (decode (.bus 0x03#7 v)) s = .next { s with rdata := s.blkcnt } ∧
      exec (decode (.bus 0x43#7 v)) s = .next s

/-- R28: the block stays after its COMPRESS. -/
def Obligations.MessageBufferChangesOnlyBy : Prop :=
  ∀ s t : State, step s = .next t → t.msg ≠ s.msg →
    s.now.rst = true ∨
    (s.busy = false ∧ ∃ c k v, s.now.presents = some c ∧ decode c = .wrMsg k v ∧ t.msg = s.msg.set k v)

/-- R151 for the engine alone and for every step with any host transaction in it. -/
def Obligations.HashHeldDuringCompress : Prop :=
  (∀ (s : State) (n : Nat), (State.engineRun n s.acceptBlock).busy = true →
      let t := State.engineRun n s.acceptBlock
      t.h = s.h ∧ t.blkcnt = s.blkcnt ∧
        (∀ j : Fin 5, exec (.rdH ⟨j.val, by omega⟩) t = .next { t with rdata := s.h[j] }) ∧
        (∀ j : Fin 10, exec (.rdHex ⟨j.val, by omega⟩) t = .next { t with rdata := hexWord s.h j }) ∧
        exec .rdBlkcnt t = .next { t with rdata := s.blkcnt }) ∧
    ∀ s t : State, s.busy = true → s.now.rst = false → step s = .next t → t.busy = true →
      t.h = s.h ∧ t.blkcnt = s.blkcnt

/-- R139: 'nothing the host does while BUSY = 1 changes the sequence', as noninterference of the port. That A..E and WIN are compared after a completion too is the model's choice (log entry 25). -/
def Obligations.HostCannotDisturbCompress : Prop :=
  ∀ (s t u : State) (c d : Cycle) (rest : List Cycle), s.busy = true → c.rst = false → d.rst = false →
    c.engine = d.engine → step { s with cycles := c :: rest } = .next t → step { s with cycles := d :: rest } = .next u →
    t.h = u.h ∧ t.vars = u.vars ∧ t.msg = u.msg ∧ t.win = u.win ∧ t.phase = u.phase ∧ t.t = u.t ∧
      t.blkcnt = u.blkcnt ∧ t.done = u.done

/-- R215: when PHASE = IDLE it takes no engine step and its state holds. The last clause, on the cycles to come, is the model's choice (log entry 1), and so is that A..E and WIN, which item I3 leaves open between two COMPRESS commands, are among the registers that hold (log entry 25). -/
def Obligations.IdleEngineHolds : Prop :=
  ∀ s : State, s.phase = .idle → s.now.rst = false → s.now.sel = false →
    ∃ t, step s = .next t ∧ SameRegisters s t ∧ t.done = false ∧ t.cycles = s.cycles.tail

/-- R122. rotl is spelled as R130 spells it. -/
def Obligations.ScheduleStep : Prop :=
  ∀ (win : Vector Word 16) (t : Fin 80),
    (∀ ht : t.val < 16, schedStep win t = (win[t.val], win)) ∧
    (16 ≤ t.val →
      let x := win[(t.val - 3) % 16] ^^^ win[(t.val - 8) % 16] ^^^ win[(t.val - 14) % 16] ^^^ win[t.val % 16]
      let w := (x <<< 1) ||| (x >>> 31)
      (schedStep win t).1 = w ∧ (schedStep win t).2[t.val % 16] = w ∧
        ∀ k : Fin 16, k.val ≠ t.val % 16 → (schedStep win t).2[k] = win[k])

/-- R120 and R121 for the array the source defines. -/
def Obligations.ScheduleWords : Prop :=
  ∀ w : Vector Word 16, (schedule w).length = 80 ∧
    (∀ i : Fin 16, scheduleWord w ⟨i.val, by omega⟩ = w[i]) ∧
    ∀ i : Fin 80, 16 ≤ i.val → scheduleWord w i =
      rotl (scheduleWord w ⟨i.val - 3, by omega⟩ ^^^ scheduleWord w ⟨i.val - 8, by omega⟩ ^^^
        scheduleWord w ⟨i.val - 14, by omega⟩ ^^^ scheduleWord w ⟨i.val - 16, by omega⟩) 1

/-- R123 with the invariant it names. -/
def Obligations.WindowGivesScheduleWords : Prop :=
  ∀ (w : Vector Word 16) (t : Fin 80),
    (schedStep (windowAfter w t.val) t).1 = scheduleWord w t ∧ WindowHolds w (windowAfter w t.val) t.val

/-- R130; the amount's range is part of rotl's type. -/
def Obligations.RotateLeftBits : Prop :=
  ∀ (n : Word) (b : Nat) (hb : 1 ≤ b ∧ b ≤ 31),
    rotl n b hb = (n <<< b ||| n >>> (32 - b)) ∧
    (∀ i : Nat, i < 32 → (rotl n b hb).getLsbD i = n.getLsbD ((i + 32 - b) % 32)) ∧
    rotl 0#32 b hb = 0#32 ∧ rotl 0xFFFFFFFF#32 b hb = 0xFFFFFFFF#32 ∧
    ∀ (b' : Nat) (hb' : 1 ≤ b' ∧ b' ≤ 31) (hs : 1 ≤ b + b' ∧ b + b' ≤ 31),
      rotl (rotl n b hb) b' hb' = rotl n (b + b') hs

/-- R132 to R134 by what each does at a bit. -/
def Obligations.RoundFunctionsBitwise : Prop :=
  ∀ (b c d : Word) (i : Nat), i < 32 →
    (fCh b c d).getLsbD i = (if b.getLsbD i then c.getLsbD i else d.getLsbD i) ∧
    (fPar b c d).getLsbD i = ((b.getLsbD i ^^ c.getLsbD i) ^^ d.getLsbD i) ∧
    (fMaj b c d).getLsbD i =
      decide (2 ≤ (b.getLsbD i).toNat + (c.getLsbD i).toNat + (d.getLsbD i).toNat)

/-- R135 and R136 over every round, the half-open ranges written out. -/
def Obligations.RoundSelection : Prop :=
  ∀ (t : Fin 80) (b c d : Word),
    (t.val < 20 → roundF (roundGroup t) b c d = fCh b c d ∧ roundK (roundGroup t) = 0x5A827999#32) ∧
    (20 ≤ t.val → t.val < 40 → roundF (roundGroup t) b c d = fPar b c d ∧ roundK (roundGroup t) = 0x6ED9EBA1#32) ∧
    (40 ≤ t.val → t.val < 60 → roundF (roundGroup t) b c d = fMaj b c d ∧ roundK (roundGroup t) = 0x8F1BBCDC#32) ∧
    (60 ≤ t.val → roundF (roundGroup t) b c d = fPar b c d ∧ roundK (roundGroup t) = 0xCA62C1D6#32)

/-- R138 with the rotations as R130 spells them. -/
def Obligations.RoundStep : Prop :=
  ∀ s : State, s.phase = .round →
    let w := (schedStep s.win s.t).1
    let f := roundF (roundGroup s.t) s.vars.b s.vars.c s.vars.d
    let k := roundK (roundGroup s.t)
    let t := s.engineStep
    t.vars.a = (s.vars.a <<< 5 ||| s.vars.a >>> 27) + f + s.vars.e + k + w ∧ t.vars.b = s.vars.a ∧
      t.vars.c = (s.vars.b <<< 30 ||| s.vars.b >>> 2) ∧ t.vars.d = s.vars.c ∧ t.vars.e = s.vars.d ∧
      t.win = (schedStep s.win s.t).2 ∧
      (s.t.val < 79 → t.t.val = s.t.val + 1 ∧ t.phase = .round) ∧
      (s.t.val = 79 → t.t.val = 0 ∧ t.phase = .finish) ∧ t.busy = true ∧
      t = { s with vars := t.vars, win := t.win, t := t.t, phase := t.phase }

/-- R150 as a whole next state. THE MODEL'S CHOICE (log entry 25, DESIGN CHOICE): A..E and WIN are unchanged too, where item I3 admits any value. -/
def Obligations.FinishStep : Prop :=
  ∀ s : State, s.phase = .finish → s.engineStep =
    { s with
      h := #v[s.h[0] + s.vars.a, s.h[1] + s.vars.b, s.h[2] + s.vars.c, s.h[3] + s.vars.d, s.h[4] + s.vars.e]
      blkcnt := s.blkcnt + 1#32
      phase := .idle
      done := true } ∧ s.engineStep.busy = false

/-- R139's sequence, step by step. That the equality of states after FINISH takes in A..E and WIN is the model's choice (log entry 25). -/
def Obligations.EightyRoundsThenFinish : Prop :=
  ∀ s : State,
    (∀ k : Nat, k < 80 → (State.engineRun k s.acceptBlock).phase = .round ∧ (State.engineRun k s.acceptBlock).t.val = k) ∧
    (State.engineRun 80 s.acceptBlock).phase = .finish ∧
    ∀ k : Nat, 81 ≤ k → State.engineRun k s.acceptBlock = State.engineRun 81 s.acceptBlock ∧
      (State.engineRun k s.acceptBlock).phase = .idle

/-- R140: CF by its own pseudocode over the array, and the engine with its window against it. -/
def Obligations.CompressComputesCF : Prop :=
  (∀ (v : Vars) (w : Vector Word 16), ∃ x : Nat → Vars, x 0 = v ∧ cf v w = x 80 ∧
      ∀ t : Fin 80, x (t.val + 1) =
        { a := rotl (x t.val).a 5 + roundF (roundGroup t) (x t.val).b (x t.val).c (x t.val).d + (x t.val).e +
                 roundK (roundGroup t) + scheduleWord w t
          b := (x t.val).a
          c := rotl (x t.val).b 30
          d := (x t.val).c
          e := (x t.val).d }) ∧
    ∀ s : State, (State.engineRun 80 s.acceptBlock).phase = .finish ∧
      (State.engineRun 80 s.acceptBlock).vars = cf ⟨s.h[0], s.h[1], s.h[2], s.h[3], s.h[4]⟩ s.msg

/-- The invariant behind every interleaving: no host step between two rounds can spoil the block in flight. -/
def Obligations.EngineOnCourseKept : Prop :=
  ∀ s t : State, EngineOnCourse s → step s = .next t → EngineOnCourse t

/-- The invariant's base; it speaks of PHASE and T only, whose reset values the spec gives. -/
def Obligations.EngineOnCourseAtReset : Prop :=
  EngineOnCourse State.reset

/-- The premise EngineOnCourse is the invariant of EngineOnCourseKept. -/
def Obligations.CompletionAddsCF : Prop :=
  ∀ s t : State, EngineOnCourse s → s.busy = true → s.now.rst = false → step s = .next t → t.busy = false →
    let v := cf ⟨s.h[0], s.h[1], s.h[2], s.h[3], s.h[4]⟩ s.msg
    t.h = #v[s.h[0] + v.a, s.h[1] + v.b, s.h[2] + v.c, s.h[3] + v.d, s.h[4] + v.e]

/-- R246 in the model's terms: no latency is assumed, only that the engine gets its steps. THE MODEL'S CHOICE: the engine's steps are data of the cycles (log entry 2), past them it takes one per cycle (log entry 3), and POLL is a condition on the values a run reads (log entry 20, DESIGN CHOICE). -/
def Obligations.EngineIsFair : Prop :=
  (∀ (s t : State) (cs : List Cycle), Runs s cs t → 81 ≤ (cs.map Cycle.engine).sum →
      ∃ k u, k ≤ cs.length ∧ Host.Core.run Sys2Proof.core k s = .next u ∧ u.busy = false) ∧
    (∀ (s : State) (cs : List Cycle) (c : Cycle) (rest : List Cycle), s.cycles = cs ++ c :: rest →
      (∀ d ∈ cs, d.rst = false ∧ (d.presents = none ∨ d.presents.map Code.bare = some (rd .status))) →
      c.presents.map Code.bare = some (rd .status) → 81 ≤ (cs.map Cycle.engine).sum → ∃ t, Polls s t) ∧
    ∀ s : State, s.cycles = [] → ∃ k u, k ≤ 81 ∧ Host.Core.run Sys2Proof.core k s = .next u ∧ u.busy = false

/-- R248: there is no gap after acceptance, and a poll can never read a stale 0. The third clause is the 'until FINISH'. -/
def Obligations.BusyVisibleAtOnce : Prop :=
  ∀ (s t : State) (c : Cycle) (rest : List Cycle), s.cycles = c :: rest → c.rst = false → step s = .next t →
    (s.busy = false → c.sel = true → decode (.bus (tcOf c.we c.addr) c.wdata) = .wrCmd 2#32 → t.busy = true) ∧
    (s.busy = true → c.sel = true → decode (.bus (tcOf c.we c.addr) c.wdata) = .rdStatus → t.rdata.getLsbD 0 = true) ∧
    (s.busy = true → t.busy = false →
      t.done = true ∧ t.blkcnt = s.blkcnt + 1#32 ∧ ∃ u : State, u.phase = .finish ∧ u.h = s.h ∧ t = u.engineStep ∧
        t.h = #v[s.h[0] + u.vars.a, s.h[1] + u.vars.b, s.h[2] + u.vars.c, s.h[3] + u.vars.d, s.h[4] + u.vars.e])

/-- R245's own example: there is no required gap between transactions. -/
def Obligations.ReadAfterWriteNextCycle : Prop :=
  ∀ (s t u : State) (c d : Cycle) (rest : List Cycle) (i : Fin 16) (v : Word), s.busy = false →
    s.cycles = c :: d :: rest → c.rst = false → c.sel = true →
    decode (.bus (tcOf c.we c.addr) c.wdata) = .wrMsg i v →
    d.rst = false → d.sel = true → decode (.bus (tcOf d.we d.addr) d.wdata) = .rdMsg i →
    step s = .next t → step t = .next u → u.rdata = v

/-- Both sides of the race of R241 at the one edge where it is decided: the host step comes first. -/
def Obligations.HostStepFirstInACycle : Prop :=
  ∀ (s t : State) (c : Cycle) (rest : List Cycle) (i : Fin 16) (v : Word), s.phase = .finish →
    s.cycles = c :: rest → c.rst = false → 1 ≤ c.engine → step s = .next t →
    t.busy = false ∧
    (c.sel = true → decode (.bus (tcOf c.we c.addr) c.wdata) = .wrMsg i v → t.errBusy = true ∧ t.msg = s.msg) ∧
    (c.sel = false → ∀ (d : Cycle) (rest' : List Cycle) (u : State), rest = d :: rest' → d.rst = false → d.sel = true →
      decode (.bus (tcOf d.we d.addr) d.wdata) = .wrMsg i v → step t = .next u → u.msg = s.msg.set i v ∧
      u.errBusy = s.errBusy)

/-- R152 and R153. -/
def Obligations.HexDigitsAndString : Prop :=
  (∀ n : BitVec 4, n ≤ 9#4 → hexchar n = 0x30#8 + n.setWidth 8) ∧
    hexchar 10#4 = 0x61#8 ∧ hexchar 11#4 = 0x62#8 ∧ hexchar 12#4 = 0x63#8 ∧ hexchar 13#4 = 0x64#8 ∧
    hexchar 14#4 = 0x65#8 ∧ hexchar 15#4 = 0x66#8 ∧
    ∀ h : Vector Word 5, (hexStr h).length = 40 ∧
      ∀ c : Fin 40, (hexStr h)[c.val]? = some (hexchar (h[c.val / 8].extractLsb' (28 - 4 * (c.val % 8)) 4))

/-- R154 and its equivalent form. -/
def Obligations.HexWordsRenderHash : Prop :=
  ∀ h : Vector Word 5,
    (∀ (j : Fin 10) (q : Fin 4), (hexStr h)[4 * j.val + q.val]? = some ((hexWord h j).extractLsb' (24 - 8 * q.val) 8)) ∧
    ∀ k : Fin 5,
      hexWord h ⟨2 * k.val, by omega⟩ = hexchar (h[k].extractLsb' 28 4) ++ hexchar (h[k].extractLsb' 24 4) ++
        hexchar (h[k].extractLsb' 20 4) ++ hexchar (h[k].extractLsb' 16 4) ∧
      hexWord h ⟨2 * k.val + 1, by omega⟩ = hexchar (h[k].extractLsb' 12 4) ++ hexchar (h[k].extractLsb' 8 4) ++
        hexchar (h[k].extractLsb' 4 4) ++ hexchar (h[k].extractLsb' 0 4)

/-- R156. -/
def Obligations.HexBytesAreLowercaseDigits : Prop :=
  ∀ h : Vector Word 5, (hexStr h).length = 40 ∧ ∀ (j : Fin 10) (q : Fin 4),
    let b := (hexWord h j).extractLsb' (8 * q.val) 8
    (0x30#8 ≤ b ∧ b ≤ 0x39#8) ∨ (0x61#8 ≤ b ∧ b ≤ 0x66#8)

/-- R102 and R104, with the bound 72 that 90_conflicts.md C1 settles. -/
def Obligations.PaddingLengths : Prop :=
  (∀ L : Nat, padZeros L ≤ 63 ∧ (L % 64 ≤ 55 → padZeros L = 55 - L % 64) ∧ (56 ≤ L % 64 → padZeros L = 119 - L % 64) ∧
      (L + 1 + padZeros L) % 64 = 56 ∧ ∀ z : Nat, (L + 1 + z) % 64 = 56 → padZeros L ≤ z) ∧
    ∀ m : List Byte, (pad m).length = m.length + 9 + padZeros m.length ∧ (pad m).length % 64 = 0 ∧ 0 < (pad m).length ∧
      9 ≤ 9 + padZeros m.length ∧ 9 + padZeros m.length ≤ 72 ∧ (m.length % 64 = 55 → 9 + padZeros m.length = 9) ∧
      (m.length % 64 = 56 → 9 + padZeros m.length = 72)

/-- R101 and R103. Past MAX_MESSAGE_BYTES the field's bytes are a free value and nothing is said of them (log entry 24). -/
def Obligations.PaddedMessageLayout : Prop :=
  ∀ m : List Byte, ∃ z f : List Byte, pad m = m ++ 0x80#8 :: (z ++ f) ∧ z.length = padZeros m.length ∧
    (∀ x ∈ z, x = 0#8) ∧ f.length = 8 ∧ f = lengthField m.length ∧
    (m.length ≤ 2 ^ 61 - 1 → f.foldl (fun n x => 256 * n + x.toNat) 0 = 8 * m.length)

/-- R105 and R106. What the length field holds past MAX_MESSAGE_BYTES is not said (log entry 24). -/
def Obligations.BlockSplitAndCount : Prop :=
  ∀ m : List Byte,
    (splitBlocks (pad m)).flatten = pad m ∧ (∀ b ∈ splitBlocks (pad m), b.length = 64) ∧
    (∀ j : Nat, j < (pad m).length / 64 → (splitBlocks (pad m))[j]? = some (((pad m).drop (64 * j)).take 64)) ∧
    (splitBlocks (pad m)).length = (m.length + 8) / 64 + 1 ∧ (splitBlocks (pad m)).length = (m.length + 9 + 63) / 64 ∧
    (splitBlocks (pad m)).length = (pad m).length / 64 ∧
    (m.length ≤ 55 → (splitBlocks (pad m)).length = 1) ∧
    (56 ≤ m.length → m.length ≤ 119 → (splitBlocks (pad m)).length = 2) ∧
    (120 ≤ m.length → m.length ≤ 183 → (splitBlocks (pad m)).length = 3) ∧
    (∃ p, (splitBlocks (pad m)).getLast? = some (p ++ lengthField m.length)) ∧
    (56 ≤ m.length → m.length ≤ 63 → splitBlocks (pad m) =
      [m ++ 0x80#8 :: List.replicate (63 - m.length) 0#8, List.replicate 56 0#8 ++ lengthField m.length])

/-- R110 and R51. -/
def Obligations.BlockWordsBigEndian : Prop :=
  (∀ (b : List Byte), b.length = 64 → ∀ (i : Fin 16) (q : Fin 4),
      b[4 * i.val + q.val]? = some ((blockWords b)[i].extractLsb' (24 - 8 * q.val) 8)) ∧
    ∀ (m : List Byte) (ws : List (Vector Word 16)), formatMessage m = .ok ws → ∃ w, ws.getLast? = some w ∧
      w[14] = BitVec.ofNat 32 (8 * m.length / 2 ^ 32) ∧ w[15] = BitVec.ofNat 32 (8 * m.length)

/-- R107. -/
def Obligations.FormatterRefusesLongMessages : Prop :=
  ∀ m : List Byte,
    (m.length ≤ 2 ^ 61 - 1 → (∃ ws, formatMessage m = .ok ws) ∧ ∃ d, sha1 m = .ok d) ∧
    (2 ^ 61 - 1 < m.length → formatMessage m = .error .messageTooLong ∧ sha1 m = .error .messageTooLong)

/-- One block of R109's loop, for every schedule of the engine; what a read cycle carries on wdata makes no difference (R74). That POLL is a condition on the values a run reads is the model's choice (log entry 20, DESIGN CHOICE). -/
def Obligations.HashBlockHashes : Prop :=
  ∀ (s t : State) (w : Vector Word 16), s.busy = false →
    (RunsHashBlk s w t ∨ ∃ n, Plays s (hashBlk w n) t ∧ t.busy = false) →
    t.busy = false ∧ t.h = hashBlock s.h w ∧ t.blkcnt = s.blkcnt + 1#32 ∧ t.msg = w ∧ t.errBusy = s.errBusy ∧
      t.errCmd = s.errCmd

/-- R109 against R108: the machine, with its window, its engine and its port, computes the digest of the message; what a read cycle carries on wdata makes no difference (R74). That POLL is a condition on the values a run reads is the model's choice (log entry 20, DESIGN CHOICE). -/
def Obligations.HostProtocolGivesSha1 : Prop :=
  ∀ (m d : List Byte) (ws : List (Vector Word 16)), formatMessage m = .ok ws → sha1 m = .ok d →
    ∀ s s₀ t : State, s.busy = false →
      (Plays s [cmdInit] s₀ ∨ (s₀ = s ∧ s.h = iv ∧ s.blkcnt = 0#32)) → FeedsBlocks s₀ ws t →
      hexStr t.h = d ∧ t.h = ws.foldl hashBlock iv ∧ t.blkcnt = BitVec.ofNat 32 ws.length ∧ t.errBusy = s.errBusy ∧
        t.errCmd = s.errCmd ∧
        ∀ (j : Fin 10) (q : Fin 4), d[4 * j.val + q.val]? = some ((hexWord t.h j).extractLsb' (24 - 8 * q.val) 8)

/-- R85: any order of the sixteen writes leaves MSG the same. -/
def Obligations.LoadOrderIsFree : Prop :=
  ∀ (s t : State) (w : Vector Word 16) (l : List Code), s.busy = false → l.Perm (loadBlk w) → Plays s l t → t.msg = w
end

