-- ==== Sys2Proof/Laws/Decode.lean ====
section
/-! SUPPORT. Facts of the two decode tables (30_encoding.md R72, R73, R76): they are total, and the rows before the fall-backs
do not overlap. -/

namespace Sys2Proof

/-- Every TC hits a row, so `busRow` never reaches the end of the list (R73). -/
theorem busTable_total : ∀ tc : BitVec 7, (busTable.find? (fun e => e.hits tc)).isSome = true := by decide +kernel

/-- Rows 1 to 14 do not overlap one another (R72). -/
theorem busTable_rows_disjoint :
    ∀ tc : BitVec 7, ((busTable.take 14).filter (fun e => e.hits tc)).length ≤ 1 := by decide +kernel

/-- The fall-back rows take exactly the reserved addresses, with either WE (R72). -/
theorem busRow_reserved :
    ∀ tc : BitVec 7, (busRow tc = .rdRsvd ∨ busRow tc = .wrRsvd) ↔ reservedAddr (tcAddr tc) = true := by decide +kernel

/-- A masked compare under the full mask is equality. -/
theorem cmdEntry_hits_full (r : CmdRow) (p cw : Word) :
    (CmdEntry.mk r p 0xFFFFFFFF#32).hits cw = (cw == p) := by
  have hm : cw &&& 0xFFFFFFFF#32 = cw := BitVec.and_allOnes
  simp only [CmdEntry.hits, hm]

/-- The row a command word selects, case by case (R76). -/
theorem cmdRow_eq (cw : Word) :
    cmdRow cw = if cw = 0#32 then .nop else if cw = 1#32 then .init else if cw = 2#32 then .compress else .cmdRsvd := by
  have hz : (CmdEntry.mk .cmdRsvd 0#32 0#32).hits cw = true := by simp [CmdEntry.hits]
  simp only [cmdRow, cmdTable, List.find?_cons, cmdEntry_hits_full, hz]
  by_cases h0 : cw = 0#32
  · simp [h0]
  · by_cases h1 : cw = 1#32
    · simp [h1]
    · by_cases h2 : cw = 2#32
      · simp [h2]
      · have b0 : (cw == 0#32) = false := beq_eq_false_iff_ne.mpr h0
        have b1 : (cw == 1#32) = false := beq_eq_false_iff_ne.mpr h1
        have b2 : (cw == 2#32) = false := beq_eq_false_iff_ne.mpr h2
        simp only [b0, b1, b2, h0, h1, h2, if_false]

/-- The data of a read is not looked at (R74). -/
@[simp] theorem decode_bare (c : Code) : decode c.bare = decode c := by
  cases c with
  | bus tc v => cases tc with | ofFin f => fin_cases f <;> rfl
  | cmd cw => rfl

/-- A TC is put together again from its fields (R71). -/
theorem tcOf_fields : ∀ tc : BitVec 7, tcOf (tcWe tc) (tcAddr tc) = tc := by decide +kernel

/-- The fields of a TC are those it was made of (R71). -/
theorem tcWe_tcOf : ∀ (we : Bool) (a : BitVec 6), tcWe (tcOf we a) = we := by decide +kernel

theorem tcAddr_tcOf : ∀ (we : Bool) (a : BitVec 6), tcAddr (tcOf we a) = a := by decide +kernel

end Sys2Proof
end

