-- ==== Sys2Proof/Laws/State.lean ====
section
/-! SUPPORT. What each named update of the state does to each field, one lemma per field, so that no proof unfolds a record
update. -/

namespace Sys2Proof.Machine

variable (s : State)

/-! `answer` -/

@[simp] theorem State.answer_h (v : Word) : (s.answer v).h = s.h := rfl
@[simp] theorem State.answer_vars (v : Word) : (s.answer v).vars = s.vars := rfl
@[simp] theorem State.answer_msg (v : Word) : (s.answer v).msg = s.msg := rfl
@[simp] theorem State.answer_win (v : Word) : (s.answer v).win = s.win := rfl
@[simp] theorem State.answer_phase (v : Word) : (s.answer v).phase = s.phase := rfl
@[simp] theorem State.answer_t (v : Word) : (s.answer v).t = s.t := rfl
@[simp] theorem State.answer_errBusy (v : Word) : (s.answer v).errBusy = s.errBusy := rfl
@[simp] theorem State.answer_errCmd (v : Word) : (s.answer v).errCmd = s.errCmd := rfl
@[simp] theorem State.answer_blkcnt (v : Word) : (s.answer v).blkcnt = s.blkcnt := rfl
@[simp] theorem State.answer_rdata (v : Word) : (s.answer v).rdata = v := rfl
@[simp] theorem State.answer_done (v : Word) : (s.answer v).done = s.done := rfl
@[simp] theorem State.answer_cycles (v : Word) : (s.answer v).cycles = s.cycles := rfl
@[simp] theorem State.answer_freeNext (v : Word) : (s.answer v).freeNext = s.freeNext := rfl

/-! `writeMsg` -/

@[simp] theorem State.writeMsg_h (i : Fin 16) (v : Word) : (s.writeMsg i v).h = s.h := rfl
@[simp] theorem State.writeMsg_vars (i : Fin 16) (v : Word) : (s.writeMsg i v).vars = s.vars := rfl
@[simp] theorem State.writeMsg_msg (i : Fin 16) (v : Word) : (s.writeMsg i v).msg = s.msg.set i v := rfl
@[simp] theorem State.writeMsg_win (i : Fin 16) (v : Word) : (s.writeMsg i v).win = s.win := rfl
@[simp] theorem State.writeMsg_phase (i : Fin 16) (v : Word) : (s.writeMsg i v).phase = s.phase := rfl
@[simp] theorem State.writeMsg_t (i : Fin 16) (v : Word) : (s.writeMsg i v).t = s.t := rfl
@[simp] theorem State.writeMsg_errBusy (i : Fin 16) (v : Word) : (s.writeMsg i v).errBusy = s.errBusy := rfl
@[simp] theorem State.writeMsg_errCmd (i : Fin 16) (v : Word) : (s.writeMsg i v).errCmd = s.errCmd := rfl
@[simp] theorem State.writeMsg_blkcnt (i : Fin 16) (v : Word) : (s.writeMsg i v).blkcnt = s.blkcnt := rfl
@[simp] theorem State.writeMsg_rdata (i : Fin 16) (v : Word) : (s.writeMsg i v).rdata = s.rdata := rfl
@[simp] theorem State.writeMsg_done (i : Fin 16) (v : Word) : (s.writeMsg i v).done = s.done := rfl
@[simp] theorem State.writeMsg_cycles (i : Fin 16) (v : Word) : (s.writeMsg i v).cycles = s.cycles := rfl
@[simp] theorem State.writeMsg_freeNext (i : Fin 16) (v : Word) : (s.writeMsg i v).freeNext = s.freeNext := rfl

/-! `raise_errBusy` -/

@[simp] theorem State.raise_errBusy_h : (s.raise .errBusy).h = s.h := rfl
@[simp] theorem State.raise_errBusy_vars : (s.raise .errBusy).vars = s.vars := rfl
@[simp] theorem State.raise_errBusy_msg : (s.raise .errBusy).msg = s.msg := rfl
@[simp] theorem State.raise_errBusy_win : (s.raise .errBusy).win = s.win := rfl
@[simp] theorem State.raise_errBusy_phase : (s.raise .errBusy).phase = s.phase := rfl
@[simp] theorem State.raise_errBusy_t : (s.raise .errBusy).t = s.t := rfl
@[simp] theorem State.raise_errBusy_errBusy : (s.raise .errBusy).errBusy = true := rfl
@[simp] theorem State.raise_errBusy_errCmd : (s.raise .errBusy).errCmd = s.errCmd := rfl
@[simp] theorem State.raise_errBusy_blkcnt : (s.raise .errBusy).blkcnt = s.blkcnt := rfl
@[simp] theorem State.raise_errBusy_rdata : (s.raise .errBusy).rdata = s.rdata := rfl
@[simp] theorem State.raise_errBusy_done : (s.raise .errBusy).done = s.done := rfl
@[simp] theorem State.raise_errBusy_cycles : (s.raise .errBusy).cycles = s.cycles := rfl
@[simp] theorem State.raise_errBusy_freeNext : (s.raise .errBusy).freeNext = s.freeNext := rfl

/-! `raise_errCmd` -/

@[simp] theorem State.raise_errCmd_h : (s.raise .errCmd).h = s.h := rfl
@[simp] theorem State.raise_errCmd_vars : (s.raise .errCmd).vars = s.vars := rfl
@[simp] theorem State.raise_errCmd_msg : (s.raise .errCmd).msg = s.msg := rfl
@[simp] theorem State.raise_errCmd_win : (s.raise .errCmd).win = s.win := rfl
@[simp] theorem State.raise_errCmd_phase : (s.raise .errCmd).phase = s.phase := rfl
@[simp] theorem State.raise_errCmd_t : (s.raise .errCmd).t = s.t := rfl
@[simp] theorem State.raise_errCmd_errBusy : (s.raise .errCmd).errBusy = s.errBusy := rfl
@[simp] theorem State.raise_errCmd_errCmd : (s.raise .errCmd).errCmd = true := rfl
@[simp] theorem State.raise_errCmd_blkcnt : (s.raise .errCmd).blkcnt = s.blkcnt := rfl
@[simp] theorem State.raise_errCmd_rdata : (s.raise .errCmd).rdata = s.rdata := rfl
@[simp] theorem State.raise_errCmd_done : (s.raise .errCmd).done = s.done := rfl
@[simp] theorem State.raise_errCmd_cycles : (s.raise .errCmd).cycles = s.cycles := rfl
@[simp] theorem State.raise_errCmd_freeNext : (s.raise .errCmd).freeNext = s.freeNext := rfl

/-! `clearErrors` -/

@[simp] theorem State.clearErrors_h (v : Word) : (s.clearErrors v).h = s.h := rfl
@[simp] theorem State.clearErrors_vars (v : Word) : (s.clearErrors v).vars = s.vars := rfl
@[simp] theorem State.clearErrors_msg (v : Word) : (s.clearErrors v).msg = s.msg := rfl
@[simp] theorem State.clearErrors_win (v : Word) : (s.clearErrors v).win = s.win := rfl
@[simp] theorem State.clearErrors_phase (v : Word) : (s.clearErrors v).phase = s.phase := rfl
@[simp] theorem State.clearErrors_t (v : Word) : (s.clearErrors v).t = s.t := rfl
@[simp] theorem State.clearErrors_errBusy (v : Word) : (s.clearErrors v).errBusy = afterW1c s.errBusy (clearsErrBusy v) := rfl
@[simp] theorem State.clearErrors_errCmd (v : Word) : (s.clearErrors v).errCmd = afterW1c s.errCmd (clearsErrCmd v) := rfl
@[simp] theorem State.clearErrors_blkcnt (v : Word) : (s.clearErrors v).blkcnt = s.blkcnt := rfl
@[simp] theorem State.clearErrors_rdata (v : Word) : (s.clearErrors v).rdata = s.rdata := rfl
@[simp] theorem State.clearErrors_done (v : Word) : (s.clearErrors v).done = s.done := rfl
@[simp] theorem State.clearErrors_cycles (v : Word) : (s.clearErrors v).cycles = s.cycles := rfl
@[simp] theorem State.clearErrors_freeNext (v : Word) : (s.clearErrors v).freeNext = s.freeNext := rfl

/-! `startRun` -/

@[simp] theorem State.startRun_h : (s.startRun).h = iv := rfl
@[simp] theorem State.startRun_vars : (s.startRun).vars = s.vars := rfl
@[simp] theorem State.startRun_msg : (s.startRun).msg = s.msg := rfl
@[simp] theorem State.startRun_win : (s.startRun).win = s.win := rfl
@[simp] theorem State.startRun_phase : (s.startRun).phase = s.phase := rfl
@[simp] theorem State.startRun_t : (s.startRun).t = s.t := rfl
@[simp] theorem State.startRun_errBusy : (s.startRun).errBusy = s.errBusy := rfl
@[simp] theorem State.startRun_errCmd : (s.startRun).errCmd = s.errCmd := rfl
@[simp] theorem State.startRun_blkcnt : (s.startRun).blkcnt = 0 := rfl
@[simp] theorem State.startRun_rdata : (s.startRun).rdata = s.rdata := rfl
@[simp] theorem State.startRun_done : (s.startRun).done = s.done := rfl
@[simp] theorem State.startRun_cycles : (s.startRun).cycles = s.cycles := rfl
@[simp] theorem State.startRun_freeNext : (s.startRun).freeNext = s.freeNext := rfl

/-! `acceptBlock` -/

@[simp] theorem State.acceptBlock_h : (s.acceptBlock).h = s.h := rfl
@[simp] theorem State.acceptBlock_vars : (s.acceptBlock).vars = Vars.ofHash s.h := rfl
@[simp] theorem State.acceptBlock_msg : (s.acceptBlock).msg = s.msg := rfl
@[simp] theorem State.acceptBlock_win : (s.acceptBlock).win = s.msg := rfl
@[simp] theorem State.acceptBlock_phase : (s.acceptBlock).phase = .round := rfl
@[simp] theorem State.acceptBlock_t : (s.acceptBlock).t = 0 := rfl
@[simp] theorem State.acceptBlock_errBusy : (s.acceptBlock).errBusy = s.errBusy := rfl
@[simp] theorem State.acceptBlock_errCmd : (s.acceptBlock).errCmd = s.errCmd := rfl
@[simp] theorem State.acceptBlock_blkcnt : (s.acceptBlock).blkcnt = s.blkcnt := rfl
@[simp] theorem State.acceptBlock_rdata : (s.acceptBlock).rdata = s.rdata := rfl
@[simp] theorem State.acceptBlock_done : (s.acceptBlock).done = s.done := rfl
@[simp] theorem State.acceptBlock_cycles : (s.acceptBlock).cycles = s.cycles := rfl
@[simp] theorem State.acceptBlock_freeNext : (s.acceptBlock).freeNext = s.freeNext := rfl

/-! `engineRound` -/

@[simp] theorem State.engineRound_h : (s.engineRound).h = s.h := rfl
@[simp] theorem State.engineRound_vars : (s.engineRound).vars = roundVars s.vars s.t (schedStep s.win s.t).1 := rfl
@[simp] theorem State.engineRound_msg : (s.engineRound).msg = s.msg := rfl
@[simp] theorem State.engineRound_win : (s.engineRound).win = (schedStep s.win s.t).2 := rfl
@[simp] theorem State.engineRound_errBusy : (s.engineRound).errBusy = s.errBusy := rfl
@[simp] theorem State.engineRound_errCmd : (s.engineRound).errCmd = s.errCmd := rfl
@[simp] theorem State.engineRound_blkcnt : (s.engineRound).blkcnt = s.blkcnt := rfl
@[simp] theorem State.engineRound_rdata : (s.engineRound).rdata = s.rdata := rfl
@[simp] theorem State.engineRound_done : (s.engineRound).done = s.done := rfl
@[simp] theorem State.engineRound_cycles : (s.engineRound).cycles = s.cycles := rfl
@[simp] theorem State.engineRound_freeNext : (s.engineRound).freeNext = s.freeNext := rfl

/-! `engineFinish` -/

@[simp] theorem State.engineFinish_h : (s.engineFinish).h = accumulate s.h s.vars := rfl
@[simp] theorem State.engineFinish_vars : (s.engineFinish).vars = s.vars := rfl
@[simp] theorem State.engineFinish_msg : (s.engineFinish).msg = s.msg := rfl
@[simp] theorem State.engineFinish_win : (s.engineFinish).win = s.win := rfl
@[simp] theorem State.engineFinish_phase : (s.engineFinish).phase = .idle := rfl
@[simp] theorem State.engineFinish_t : (s.engineFinish).t = s.t := rfl
@[simp] theorem State.engineFinish_errBusy : (s.engineFinish).errBusy = s.errBusy := rfl
@[simp] theorem State.engineFinish_errCmd : (s.engineFinish).errCmd = s.errCmd := rfl
@[simp] theorem State.engineFinish_blkcnt : (s.engineFinish).blkcnt = s.blkcnt + 1 := rfl
@[simp] theorem State.engineFinish_rdata : (s.engineFinish).rdata = s.rdata := rfl
@[simp] theorem State.engineFinish_done : (s.engineFinish).done = true := rfl
@[simp] theorem State.engineFinish_cycles : (s.engineFinish).cycles = s.cycles := rfl
@[simp] theorem State.engineFinish_freeNext : (s.engineFinish).freeNext = s.freeNext := rfl

/-! `beginCycle` -/

@[simp] theorem State.beginCycle_h : (s.beginCycle).h = s.h := rfl
@[simp] theorem State.beginCycle_vars : (s.beginCycle).vars = s.vars := rfl
@[simp] theorem State.beginCycle_msg : (s.beginCycle).msg = s.msg := rfl
@[simp] theorem State.beginCycle_win : (s.beginCycle).win = s.win := rfl
@[simp] theorem State.beginCycle_phase : (s.beginCycle).phase = s.phase := rfl
@[simp] theorem State.beginCycle_t : (s.beginCycle).t = s.t := rfl
@[simp] theorem State.beginCycle_errBusy : (s.beginCycle).errBusy = s.errBusy := rfl
@[simp] theorem State.beginCycle_errCmd : (s.beginCycle).errCmd = s.errCmd := rfl
@[simp] theorem State.beginCycle_blkcnt : (s.beginCycle).blkcnt = s.blkcnt := rfl
@[simp] theorem State.beginCycle_rdata : (s.beginCycle).rdata = Config.freeRdata s.freeNext := rfl
@[simp] theorem State.beginCycle_done : (s.beginCycle).done = false := rfl
@[simp] theorem State.beginCycle_cycles : (s.beginCycle).cycles = s.cycles.tail := rfl
@[simp] theorem State.beginCycle_freeNext : (s.beginCycle).freeNext = s.freeNext + 1 := rfl

/-! `resetEdge` -/

@[simp] theorem State.resetEdge_h : (s.resetEdge).h = iv := rfl
@[simp] theorem State.resetEdge_vars : (s.resetEdge).vars = ⟨0, 0, 0, 0, 0⟩ := rfl
@[simp] theorem State.resetEdge_msg : (s.resetEdge).msg = State.reset.msg := rfl
@[simp] theorem State.resetEdge_win : (s.resetEdge).win = State.reset.win := rfl
@[simp] theorem State.resetEdge_phase : (s.resetEdge).phase = .idle := rfl
@[simp] theorem State.resetEdge_t : (s.resetEdge).t = 0 := rfl
@[simp] theorem State.resetEdge_errBusy : (s.resetEdge).errBusy = false := rfl
@[simp] theorem State.resetEdge_errCmd : (s.resetEdge).errCmd = false := rfl
@[simp] theorem State.resetEdge_blkcnt : (s.resetEdge).blkcnt = 0 := rfl
@[simp] theorem State.resetEdge_rdata : (s.resetEdge).rdata = 0 := rfl
@[simp] theorem State.resetEdge_done : (s.resetEdge).done = false := rfl
@[simp] theorem State.resetEdge_cycles : (s.resetEdge).cycles = s.cycles.tail := rfl
@[simp] theorem State.resetEdge_freeNext : (s.resetEdge).freeNext = s.freeNext := rfl

/-! BUSY is a view of `phase`. -/

theorem State.busy_eq : s.busy = true ↔ s.phase ≠ .idle := by
  cases hp : s.phase <;> simp [State.busy, hp]

theorem State.busy_false : s.busy = false ↔ s.phase = .idle := by
  cases hp : s.phase <;> simp [State.busy, hp]

theorem State.busy_congr {s t : State} (hp : s.phase = t.phase) : s.busy = t.busy := by
  simp [State.busy, hp]

/-! `unlessBusy` -/

@[simp] theorem State.unlessBusy_of_busy {s u : State} (hb : s.busy = true) : s.unlessBusy u = s.raise .errBusy := by
  simp [State.unlessBusy, hb]

@[simp] theorem State.unlessBusy_of_idle {s u : State} (hb : s.busy = false) : s.unlessBusy u = u := by
  simp [State.unlessBusy, hb]

end Sys2Proof.Machine
end

