-- ==== Sys2Proof/Laws/Engine.lean ====
section
/-! SUPPORT. What the engine's steps can do, said once: which step each phase takes, and what n steps in a row keep. -/

namespace Sys2Proof.Machine

@[simp] theorem engineStep_idle {s : State} (hp : s.phase = .idle) : s.engineStep = s := by
  simp [State.engineStep, hp]

@[simp] theorem engineStep_round {s : State} (hp : s.phase = .round) : s.engineStep = s.engineRound := by
  simp [State.engineStep, hp]

@[simp] theorem engineStep_finish {s : State} (hp : s.phase = .finish) : s.engineStep = s.engineFinish := by
  simp [State.engineStep, hp]

/-- A round before the last goes on to the next round (42_compression_rounds.md R138). -/
theorem engineRound_more {s : State} (ht : s.t.val < 79) :
    s.engineRound.phase = .round ∧ s.engineRound.t.val = s.t.val + 1 := by
  simp [State.engineRound, ht]

/-- The last round hands over to FINISH (42_compression_rounds.md R138, R139). -/
theorem engineRound_last {s : State} (ht : ¬ s.t.val < 79) :
    s.engineRound.phase = .finish ∧ s.engineRound.t = 0 := by
  simp [State.engineRound, ht]

/-- A round never ends the COMPRESS. -/
theorem engineRound_busy (s : State) : s.engineRound.phase ≠ .idle := by
  by_cases ht : s.t.val < 79
  · simp [(engineRound_more ht).1]
  · simp [(engineRound_last ht).1]

@[simp] theorem engineRun_zero (s : State) : State.engineRun 0 s = s := rfl

theorem engineRun_succ (n : Nat) (s : State) : State.engineRun (n + 1) s = State.engineRun n s.engineStep := rfl

/-- n + 1 steps, the last one taken off. -/
theorem engineRun_succ_last (n : Nat) (s : State) :
    State.engineRun (n + 1) s = (State.engineRun n s).engineStep := by
  induction n generalizing s with
  | zero => rfl
  | succ n ih => rw [engineRun_succ, ih, ← engineRun_succ]

/-- m + n steps are m steps and then n. -/
theorem engineRun_add (m n : Nat) (s : State) :
    State.engineRun (m + n) s = State.engineRun n (State.engineRun m s) := by
  induction m generalizing s with
  | zero => simp
  | succ m ih => rw [Nat.succ_add, engineRun_succ, engineRun_succ, ih]

/-- An idle engine stays as it is (60_exceptions.md R215). -/
@[simp] theorem engineRun_idle (n : Nat) {s : State} (hp : s.phase = .idle) : State.engineRun n s = s := by
  induction n with
  | zero => rfl
  | succ n ih => rw [engineRun_succ, engineStep_idle hp, ih]

/-- What one engine step keeps: the block, the error bits, rdata and the model's own fields. -/
theorem engineStep_keeps (s : State) :
    s.engineStep.msg = s.msg ∧ s.engineStep.errBusy = s.errBusy ∧ s.engineStep.errCmd = s.errCmd ∧
      s.engineStep.rdata = s.rdata ∧ s.engineStep.cycles = s.cycles ∧ s.engineStep.freeNext = s.freeNext := by
  cases hp : s.phase <;> simp [hp]

/-- What n engine steps keep. -/
theorem engineRun_keeps (n : Nat) (s : State) :
    (State.engineRun n s).msg = s.msg ∧ (State.engineRun n s).errBusy = s.errBusy ∧
      (State.engineRun n s).errCmd = s.errCmd ∧ (State.engineRun n s).rdata = s.rdata ∧
      (State.engineRun n s).cycles = s.cycles ∧ (State.engineRun n s).freeNext = s.freeNext := by
  induction n generalizing s with
  | zero => simp
  | succ n ih =>
    have h := ih s.engineStep
    have k := engineStep_keeps s
    simp_all [engineRun_succ]

/-- n engine steps from a COMPRESS in flight, `done` low: either it is still in flight and H, BLKCNT and `done` are as
before, or it has just completed once, and `done` is high. -/
theorem engineRun_inFlight (n : Nat) {s : State} (hp : s.phase ≠ .idle) (hd : s.done = false) :
    ((State.engineRun n s).phase ≠ .idle ∧ (State.engineRun n s).h = s.h ∧ (State.engineRun n s).blkcnt = s.blkcnt ∧
      (State.engineRun n s).done = false) ∨
    ((State.engineRun n s).phase = .idle ∧ (State.engineRun n s).done = true ∧
      (State.engineRun n s).blkcnt = s.blkcnt + 1 ∧
      ∃ k, k < n ∧ (State.engineRun k s).phase = .finish ∧ (State.engineRun k s).h = s.h ∧
        (State.engineRun n s) = (State.engineRun k s).engineFinish) := by
  induction n with
  | zero => exact Or.inl ⟨hp, rfl, rfl, hd⟩
  | succ n ih =>
    rw [engineRun_succ_last]
    rcases ih with ⟨h1, h2, h3, h4⟩ | ⟨h1, h2, h3, k, hk, h5⟩
    · cases hq : (State.engineRun n s).phase with
      | idle => exact absurd hq h1
      | round =>
        rw [engineStep_round hq]
        exact Or.inl ⟨engineRound_busy _, by simp [h2], by simp [h3], by simp [h4]⟩
      | finish =>
        rw [engineStep_finish hq]
        exact Or.inr ⟨rfl, rfl, by simp [h3], n, by omega, hq, h2, rfl⟩
    · rw [engineStep_idle h1]
      exact Or.inr ⟨h1, h2, h3, k, by omega, h5⟩

end Sys2Proof.Machine
end

