-- ==== Sys2Proof/Laws/Exec.lean ====
section
/-! SUPPORT. What a host step can do, said once: every instruction answers a next state, and its effect is one of eight.
Proofs about all instructions split on these and never unfold a meaning. -/

namespace Sys2Proof.Machine

/-- The writes that are ignored, and NOP as a command or through CMD. -/
def ignores : Instr → Bool
  | .wrId _ | .wrBlkcnt _ | .wrH _ _ | .wrHex _ _ | .wrRsvd _ _ | .nop => true
  | .wrCmd cw => cw == 0#32
  | .rdId | .rdCmd | .rdStatus | .rdBlkcnt | .rdMsg _ | .rdH _ | .rdHex _ | .rdRsvd _ | .wrStatus _ | .wrMsg _ _
  | .init | .compress | .cmdRsvd _ => false

/-- The read transactions. -/
def reads : Instr → Bool
  | .rdId | .rdCmd | .rdStatus | .rdBlkcnt | .rdMsg _ | .rdH _ | .rdHex _ | .rdRsvd _ => true
  | .wrId _ | .wrCmd _ | .wrStatus _ | .wrBlkcnt _ | .wrMsg _ _ | .wrH _ _ | .wrHex _ _ | .wrRsvd _ _
  | .nop | .init | .compress | .cmdRsvd _ => false

/-- The effect of an instruction on the state: a shared operation with the conditions under which it happens. -/
inductive HostEffect (s : State) : Instr → State → Prop where
  /-- an ignored write, or NOP -/
  | ignored {i : Instr} (which : ignores i = true) : HostEffect s i s
  /-- a read -/
  | answered {i : Instr} (v : Word) (which : reads i = true) : HostEffect s i (s.answer v)
  /-- WR_STATUS -/
  | cleared (v : Word) : HostEffect s (.wrStatus v) (s.clearErrors v)
  /-- WR_MSG accepted -/
  | wroteMsg (i : Fin 16) (v : Word) (idle : s.busy = false) : HostEffect s (.wrMsg i v) (s.writeMsg i v)
  /-- WR_MSG, INIT or COMPRESS rejected -/
  | rejectedBusy {i : Instr} (which : (∃ k v, i = .wrMsg k v) ∨ i = .wrCmd 1#32 ∨ i = .wrCmd 2#32 ∨ i = .init ∨ i = .compress)
      (busy : s.busy = true) : HostEffect s i (s.raise .errBusy)
  /-- a reserved command -/
  | rejectedCmd {i : Instr} (which : (∃ cw, i = .wrCmd cw ∧ reservedCommand cw = true) ∨ ∃ cw, i = .cmdRsvd cw) :
      HostEffect s i (s.raise .errCmd)
  /-- INIT accepted -/
  | started {i : Instr} (which : i = .wrCmd 1#32 ∨ i = .init) (idle : s.busy = false) : HostEffect s i s.startRun
  /-- COMPRESS accepted -/
  | accepted {i : Instr} (which : i = .wrCmd 2#32 ∨ i = .compress) (idle : s.busy = false) : HostEffect s i s.acceptBlock

/-- INIT, as a command or through CMD. -/
theorem startRun_effect {s : State} {i : Instr} (which : i = .wrCmd 1#32 ∨ i = .init) :
    HostEffect s i (s.unlessBusy s.startRun) := by
  by_cases hb : s.busy = true
  · rw [State.unlessBusy_of_busy hb]
    exact .rejectedBusy (by tauto) hb
  · rw [State.unlessBusy_of_idle (by simpa using hb)]
    exact .started which (by simpa using hb)

/-- COMPRESS, as a command or through CMD. -/
theorem acceptBlock_effect {s : State} {i : Instr} (which : i = .wrCmd 2#32 ∨ i = .compress) :
    HostEffect s i (s.unlessBusy s.acceptBlock) := by
  by_cases hb : s.busy = true
  · rw [State.unlessBusy_of_busy hb]
    exact .rejectedBusy (by tauto) hb
  · rw [State.unlessBusy_of_idle (by simpa using hb)]
    exact .accepted which (by simpa using hb)

/-- WR_MSG. -/
theorem writeMsg_effect (s : State) (k : Fin 16) (v : Word) :
    HostEffect s (.wrMsg k v) (s.unlessBusy (s.writeMsg k v)) := by
  by_cases hb : s.busy = true
  · rw [State.unlessBusy_of_busy hb]
    exact .rejectedBusy (Or.inl ⟨k, v, rfl⟩) hb
  · rw [State.unlessBusy_of_idle (by simpa using hb)]
    exact .wroteMsg k v (by simpa using hb)

/-- WR_CMD runs the command its word selects (44_host_commands.md R173). -/
theorem wrCmd_effect (s : State) (cw : Word) : ∃ t, execWrCmd cw s = .next t ∧ HostEffect s (.wrCmd cw) t := by
  unfold execWrCmd
  rw [cmdRow_eq]
  split_ifs with h0 h1 h2
  · exact ⟨s, rfl, .ignored (by simp [ignores, h0])⟩
  · exact ⟨_, rfl, startRun_effect (Or.inl (by subst h1; rfl))⟩
  · exact ⟨_, rfl, acceptBlock_effect (Or.inl (by subst h2; rfl))⟩
  · exact ⟨_, rfl, .rejectedCmd (Or.inl ⟨cw, rfl, by simp [reservedCommand, h0, h1, h2]⟩)⟩

/-- Every instruction answers a next state, by one of the eight effects. -/
theorem exec_effect (i : Instr) (s : State) : ∃ t, exec i s = .next t ∧ HostEffect s i t := by
  cases i with
  | rdId => exact ⟨_, rfl, .answered _ rfl⟩
  | wrId v => exact ⟨_, rfl, .ignored rfl⟩
  | rdCmd => exact ⟨_, rfl, .answered _ rfl⟩
  | wrCmd cw => exact wrCmd_effect s cw
  | rdStatus => exact ⟨_, rfl, .answered _ rfl⟩
  | wrStatus v => exact ⟨_, rfl, .cleared v⟩
  | rdBlkcnt => exact ⟨_, rfl, .answered _ rfl⟩
  | wrBlkcnt v => exact ⟨_, rfl, .ignored rfl⟩
  | rdMsg k => exact ⟨_, rfl, .answered _ rfl⟩
  | wrMsg k v => exact ⟨_, rfl, writeMsg_effect s k v⟩
  | rdH j => exact ⟨_, rfl, .answered _ rfl⟩
  | wrH j v => exact ⟨_, rfl, .ignored rfl⟩
  | rdHex j => exact ⟨_, rfl, .answered _ rfl⟩
  | wrHex j v => exact ⟨_, rfl, .ignored rfl⟩
  | rdRsvd a => exact ⟨_, rfl, .answered _ rfl⟩
  | wrRsvd a v => exact ⟨_, rfl, .ignored rfl⟩
  | nop => exact ⟨_, rfl, .ignored rfl⟩
  | init => exact ⟨_, rfl, startRun_effect (Or.inr rfl)⟩
  | compress => exact ⟨_, rfl, acceptBlock_effect (Or.inr rfl)⟩
  | cmdRsvd cw => exact ⟨_, rfl, .rejectedCmd (Or.inr ⟨cw, rfl⟩)⟩

/-- The inversion of `exec`: whatever it answers is one of the eight effects. -/
theorem effect_of_exec {i : Instr} {s t : State} (h : exec i s = .next t) : HostEffect s i t := by
  obtain ⟨u, hu, he⟩ := exec_effect i s
  rw [hu] at h
  cases h
  exact he

/-- While a COMPRESS is in flight, a host step leaves the engine, the hash state, the block and the counter alone. -/
theorem HostEffect.keeps_engine {i : Instr} {s t : State} (he : HostEffect s i t) (hb : s.busy = true) :
    t.h = s.h ∧ t.vars = s.vars ∧ t.msg = s.msg ∧ t.win = s.win ∧ t.phase = s.phase ∧ t.t = s.t ∧ t.blkcnt = s.blkcnt ∧
      t.done = s.done := by
  cases he <;> simp_all

/-- No host step touches the cycles to come, the free values or `done`. -/
theorem HostEffect.keeps_outside {i : Instr} {s t : State} (he : HostEffect s i t) :
    t.cycles = s.cycles ∧ t.freeNext = s.freeNext ∧ t.done = s.done := by
  cases he <;> simp

end Sys2Proof.Machine
end

