-- ==== Sys2Proof/Laws/Format.lean ====
section
/-! SUPPORT. What the formatter's pieces are, said once: how many bytes each has, and what the length field holds. -/

namespace Sys2Proof.Machine

@[simp] theorem bytesBe_length (v n : Nat) : (bytesBe v n).length = n := by
  induction n with
  | zero => rfl
  | succ n ih => simp [bytesBe, ih]

@[simp] theorem lengthField_length (len : Nat) : (lengthField len).length = 8 := by simp [lengthField]

/-- Up to MAX_MESSAGE_BYTES the length field is the bit length (40_message_formatting.md R103). -/
theorem bitLength_of_le {len : Nat} (h : len ≤ Config.maxMessageBytes) : bitLength len = 8 * len := by
  simp [bitLength, h]

/-- The bytes of a value, read most significant first, are the value modulo the width. -/
theorem bytesBe_value (v n a : Nat) :
    (bytesBe v n).foldl (fun r x => 256 * r + x.toNat) a = 256 ^ n * a + v % 256 ^ n := by
  induction n generalizing a with
  | zero => simp [bytesBe, Nat.mod_one]
  | succ n ih =>
    have hv : v % 256 ^ (n + 1) = 256 ^ n * (v / 256 ^ n % 256) + v % 256 ^ n := by
      rw [pow_succ, Nat.mod_mul]
      ring
    simp only [bytesBe, List.foldl_cons, ih, BitVec.toNat_ofNat]
    rw [hv]
    ring

@[simp] theorem pad_length (m : List Byte) : (pad m).length = m.length + 9 + padZeros m.length := by
  simp [pad]
  omega

end Sys2Proof.Machine
end

