-- ==== Sys2Proof/Laws/Step.lean ====
section
/-! SUPPORT. What one clock cycle can do, said once: it answers a next state, which is the reset edge's, or a host step
followed by the engine's steps. -/

namespace Sys2Proof.Machine

/-- What a cycle presents, as the machine sees it: nothing, or one instruction. -/
def State.presented (s : State) : Option Instr := s.now.presents.map decode

/-- The host step of a cycle: no transaction and no effect, or one of an instruction's effects. -/
def CycleEffect (s u : State) : Prop :=
  (s.now.presents = none ∧ u = s.beginCycle) ∨
    ∃ c, s.now.presents = some c ∧ HostEffect s.beginCycle (decode c) u

/-- A cycle with rst = 0 is a host step and then the engine's steps. -/
theorem step_ordinary {s : State} (hr : s.now.rst = false) :
    ∃ u, CycleEffect s u ∧ step s = .next (State.engineRun s.engineShare u) := by
  unfold step runCycle hostStep
  cases hc : s.now.presents with
  | none => exact ⟨s.beginCycle, Or.inl ⟨hc, rfl⟩, by simp [hr]⟩
  | some c =>
    obtain ⟨u, hu, he⟩ := exec_effect (decode c) s.beginCycle
    exact ⟨u, Or.inr ⟨c, hc, he⟩, by simp [hr, hu]⟩

/-- A cycle with rst = 1 is a reset edge (70_reset_and_hazards.md R230). -/
theorem step_reset {s : State} (hr : s.now.rst = true) : step s = .next s.resetEdge := by
  simp [step, runCycle, hr]

/-- The inversion of `step`. -/
theorem step_cases {s t : State} (h : step s = .next t) :
    (s.now.rst = true ∧ t = s.resetEdge) ∨
      (s.now.rst = false ∧ ∃ u, CycleEffect s u ∧ t = State.engineRun s.engineShare u) := by
  cases hr : s.now.rst with
  | true =>
    rw [step_reset hr] at h
    cases h
    exact Or.inl ⟨rfl, rfl⟩
  | false =>
    obtain ⟨u, hu, hs⟩ := step_ordinary hr
    rw [hs] at h
    cases h
    exact Or.inr ⟨rfl, u, hu, rfl⟩

/-- The engine takes no step at the edge of a cycle that begins idle (20_memory.md R60). -/
theorem engineShare_idle {s : State} (hb : s.busy = false) : s.engineShare = 0 := by
  have hp := (State.busy_false s).mp hb
  simp [State.engineShare, hp]

@[simp] theorem beginCycle_busy (s : State) : s.beginCycle.busy = s.busy := rfl

/-- A host step leaves the cycles to come, the free values and `done` as the cycle's start set them. -/
theorem CycleEffect.keeps_outside {s u : State} (h : CycleEffect s u) :
    u.cycles = s.cycles.tail ∧ u.freeNext = s.freeNext + 1 ∧ u.done = false := by
  rcases h with ⟨-, rfl⟩ | ⟨c, -, he⟩
  · simp
  · simpa using he.keeps_outside

/-- Every step takes its cycle off the list. -/
theorem step_cycles {s t : State} (h : step s = .next t) : t.cycles = s.cycles.tail := by
  rcases step_cases h with ⟨-, rfl⟩ | ⟨-, u, hu, rfl⟩
  · rfl
  · rw [(engineRun_keeps _ u).2.2.2.2.1, hu.keeps_outside.1]

/-- While a COMPRESS is in flight, a cycle's host step leaves the engine, the hash state, the block and the counter alone. -/
theorem CycleEffect.keeps_engine {s u : State} (h : CycleEffect s u) (hb : s.busy = true) :
    u.h = s.h ∧ u.vars = s.vars ∧ u.msg = s.msg ∧ u.win = s.win ∧ u.phase = s.phase ∧ u.t = s.t ∧ u.blkcnt = s.blkcnt := by
  rcases h with ⟨-, rfl⟩ | ⟨c, -, he⟩
  · simp
  · have := he.keeps_engine (by simpa using hb)
    simp_all

end Sys2Proof.Machine
end

