-- ==== Sys2Proof/Laws/HostSide.lean ====
section
/-! SUPPORT. The host's side, said once: when POLL ends, and that a run in which the host sees values is a run in which it
presents the codes. -/

namespace Sys2Proof.Machine

theorem pollEnds_again {v : Word} {vs : List Word} (h : pollAgain v = true) : pollEnds (v :: vs) = pollEnds vs := by
  simp [pollEnds, h]

theorem pollEnds_last {v : Word} {vs : List Word} (h : pollAgain v = false) : pollEnds (v :: vs) = true ↔ vs = [] := by
  simp [pollEnds, h]

/-- A run of n + 1 steps, its first step taken off. -/
theorem run_succ {s t : State} (n : Nat) (h : step s = .next t) :
    Host.Core.run core (n + 1) s = Host.Core.run core n t := by
  have hs : core.step s = .next t := h
  simp only [Host.Core.run, hs]

/-- A listed cycle put before a run. -/
theorem Runs.cons {s t u : State} {c : Cycle} {rest cs : List Cycle} (hc : s.cycles = c :: rest) (hr : c.rst = false)
    (hs : step s = .next t) (h : Runs t cs u) : Runs s (c :: cs) u := by
  obtain ⟨h1, ⟨after, h2⟩, h3⟩ := h
  have ht : t.cycles = rest := by rw [step_cycles hs, hc]; rfl
  refine ⟨by simpa [hr] using h1, ⟨after, by rw [hc, ← ht, h2]; rfl⟩, ?_⟩
  rw [List.length_cons, run_succ _ hs]
  exact h3

/-- A cycle without a transaction put before what the host plays. -/
theorem CycleRuns.plays_idle {s t u : State} {codes : List Code} (h : CycleRuns s none t) (hp : Plays t codes u) :
    Plays s codes u := by
  obtain ⟨c, rest, hc, hr, hn, hs⟩ := h
  obtain ⟨cs, hrun, hcodes⟩ := hp
  have hn' : c.presents = none := by simpa using hn
  exact ⟨c :: cs, hrun.cons hc hr hs, by rw [List.filterMap_cons_none hn', hcodes]⟩

/-- A cycle with a transaction put before what the host plays. -/
theorem CycleRuns.plays_code {s t u : State} {e : Code} {codes : List Code} (h : CycleRuns s (some e) t)
    (hp : Plays t codes u) : Plays s (e :: codes) u := by
  obtain ⟨c, rest, hc, hr, hn, hs⟩ := h
  obtain ⟨cs, hrun, hcodes⟩ := hp
  obtain ⟨d, hd, hde⟩ : ∃ d, c.presents = some d ∧ d.bare = e.bare := by simpa using hn
  exact ⟨c :: cs, hrun.cons hc hr hs, by rw [List.filterMap_cons_some hd, List.map_cons, hcodes, hde]; rfl⟩

/-- A run in which the host sees values is one in which it presents the codes. -/
theorem Observes.plays {s t : State} {l : List (Code × Word)} (h : Observes s l t) : Plays s (l.map Prod.fst) t := by
  induction h with
  | done s => exact ⟨[], ⟨by simp, ⟨_, rfl⟩, rfl⟩, rfl⟩
  | idle cycle _ ih => exact cycle.plays_idle ih
  | code cycle _ ih => exact cycle.plays_code ih

end Sys2Proof.Machine
end

