-- ==== Sys2Proof/Laws/PerInstr.lean ====
section
/-! SUPPORT. Per instruction: the code the encoder gives carries the format and hits the row the instruction names. -/

namespace Sys2Proof.Laws.EncodesToItsRow

/-- The decode row of a code, in the order of the two tables together. -/
def rowOf : Code → BusRow ⊕ CmdRow
  | .bus tc _ => .inl (busRow tc)
  | .cmd cw => .inr (cmdRow cw)

/-- The row an instruction is named after. -/
def named : Instr → BusRow ⊕ CmdRow
  | .rdId => .inl .rdId
  | .wrId _ => .inl .wrId
  | .rdCmd => .inl .rdCmd
  | .wrCmd _ => .inl .wrCmd
  | .rdStatus => .inl .rdStatus
  | .wrStatus _ => .inl .wrStatus
  | .rdBlkcnt => .inl .rdBlkcnt
  | .wrBlkcnt _ => .inl .wrBlkcnt
  | .rdMsg _ => .inl .rdMsg
  | .wrMsg _ _ => .inl .wrMsg
  | .rdH _ => .inl .rdH
  | .wrH _ _ => .inl .wrH
  | .rdHex _ => .inl .rdHex
  | .wrHex _ _ => .inl .wrHex
  | .rdRsvd _ => .inl .rdRsvd
  | .wrRsvd _ _ => .inl .wrRsvd
  | .nop => .inr .nop
  | .init => .inr .init
  | .compress => .inr .compress
  | .cmdRsvd _ => .inr .cmdRsvd

/-- A well-formed instruction's code selects the instruction's own row (30_encoding.md R72, R76). -/
def Statement (i : Instr) : Prop := WellFormed i → rowOf (encode i) = named i

/-- The codes of the two reserved rows, over all reserved addresses. -/
theorem reserved_rows :
    ∀ a : BitVec 6, reservedAddr a = true → busRow (0b0#1 ++ a) = .rdRsvd ∧ busRow (0b1#1 ++ a) = .wrRsvd := by
  decide +kernel

/-- The codes of the windows' rows, over all indices. -/
theorem window_rows4 :
    ∀ i : Fin 16, busRow (0b001#3 ++ BitVec.ofNat 4 i.val) = .rdMsg ∧ busRow (0b101#3 ++ BitVec.ofNat 4 i.val) = .wrMsg ∧
      busRow (0b011#3 ++ BitVec.ofNat 4 i.val) = .rdHex ∧ busRow (0b111#3 ++ BitVec.ofNat 4 i.val) = .wrHex := by
  decide +kernel

theorem window_rows3 :
    ∀ j : Fin 8, busRow (0b0100#4 ++ BitVec.ofNat 3 j.val) = .rdH ∧ busRow (0b1100#4 ++ BitVec.ofNat 3 j.val) = .wrH := by
  decide +kernel

theorem rdId : Statement .rdId := fun _ => rfl
theorem wrId (v : Word) : Statement (.wrId v) := fun _ => rfl
theorem rdCmd : Statement .rdCmd := fun _ => rfl
theorem wrCmd (cw : Word) : Statement (.wrCmd cw) := fun _ => rfl
theorem rdStatus : Statement .rdStatus := fun _ => rfl
theorem wrStatus (v : Word) : Statement (.wrStatus v) := fun _ => rfl
theorem rdBlkcnt : Statement .rdBlkcnt := fun _ => rfl
theorem wrBlkcnt (v : Word) : Statement (.wrBlkcnt v) := fun _ => rfl
theorem rdMsg (i : Fin 16) : Statement (.rdMsg i) := fun _ => congrArg _ (window_rows4 i).1
theorem wrMsg (i : Fin 16) (v : Word) : Statement (.wrMsg i v) := fun _ => congrArg _ (window_rows4 i).2.1
theorem rdH (j : Fin 8) : Statement (.rdH j) := fun _ => congrArg _ (window_rows3 j).1
theorem wrH (j : Fin 8) (v : Word) : Statement (.wrH j v) := fun _ => congrArg _ (window_rows3 j).2
theorem rdHex (j : Fin 16) : Statement (.rdHex j) := fun _ => congrArg _ (window_rows4 j).2.2.1
theorem wrHex (j : Fin 16) (v : Word) : Statement (.wrHex j v) := fun _ => congrArg _ (window_rows4 j).2.2.2
theorem rdRsvd (a : BitVec 6) : Statement (.rdRsvd a) := fun h => congrArg _ (reserved_rows a h).1
theorem wrRsvd (a : BitVec 6) (v : Word) : Statement (.wrRsvd a v) := fun h => congrArg _ (reserved_rows a h).2
theorem nop : Statement .nop := fun _ => rfl
theorem init : Statement .init := fun _ => rfl
theorem compress : Statement .compress := fun _ => rfl

theorem cmdRsvd (cw : Word) : Statement (.cmdRsvd cw) := by
  intro h
  have hc : cw ≠ 0#32 ∧ cw ≠ 1#32 ∧ cw ≠ 2#32 := by
    simpa [WellFormed, Instr.wf, reservedCommand, and_assoc] using h
  simp [rowOf, named, encode, cmdRow_eq, hc]

end Sys2Proof.Laws.EncodesToItsRow
end

