-- ==== Sys2Proof/Tests/Slice0.lean ====
section
/-! SUPPORT. Tests. The expected values come from spec/: the tables of 95_test_vectors.md where a section (§) is named, else
the rule named. The theorems test_witness_… show that the hypotheses of the statement they name can be met, clause by clause.
-/

namespace Sys2Proof.Tests

open Sys2Proof.Machine

/-! ## Helpers -/

/-- The next state, if there is one. -/
def after (o : Host.Outcome State Fault Refusal) : Option State :=
  match o with
  | .next t => some t
  | .fault _ => none
  | .refused _ => none

theorem of_after {o : Host.Outcome State Fault Refusal} {p : State → Bool} (h : (after o).map p = some true) :
    ∃ t, o = .next t ∧ p t = true := by
  cases o with
  | next t => exact ⟨t, rfl, by simpa [after] using h⟩
  | fault r => cases r
  | refused r => simp [after] at h

/-- A read of one register after an instruction. -/
def readAfter (i : Instr) (s : State) (a : BitVec 6) : Option Word := (after (exec i s)).map fun t => t.regMap a

/-- An idle machine whose registers all differ. -/
def idleSt : State :=
  { State.reset with
    h := #v[0xA0000000, 0xA0000001, 0xA0000002, 0xA0000003, 0xA0000004]
    msg := #v[0xB0, 0xB1, 0xB2, 0xB3, 0xB4, 0xB5, 0xB6, 0xB7, 0xB8, 0xB9, 0xBA, 0xBB, 0xBC, 0xBD, 0xBE, 0xBF]
    blkcnt := 7
    rdata := 0xEE }

/-- The same with a COMPRESS in flight before round t. -/
def roundSt (t : Fin 80) : State := { idleSt with phase := .round, t := t }

/-- The same with accumulation due. -/
def finishSt : State :=
  { idleSt with phase := .finish, vars := ⟨0x60000000, 1, 2, 3, 4⟩ }

/-- A state in the one cycle `c`. -/
def inCycle (s : State) (c : Cycle) : State := { s with cycles := [c] }

/-- A cycle with rst = 1 in which a write is presented. -/
def resetCycle : Cycle := { cycleOf (wr (.msg 0) 5) 3 with rst := true }

/-- "abc" and its block (§2.1). -/
def abc : List Byte := [0x61, 0x62, 0x63]

def abcBlock : Vector Word 16 := #v[0x61626380, 0, 0, 0, 0, 0, 0, 0, 0, 0, 0, 0, 0, 0, 0, 0x18]

/-! ## Well-formed instructions (30_encoding.md R72, R76) -/

theorem test_illformed_rdRsvd :
    ¬WellFormed (.rdRsvd 0x03#6) ∧ ¬WellFormed (.rdRsvd 0x10#6) ∧ ¬WellFormed (.rdRsvd 0x27#6) ∧ ¬WellFormed (.rdRsvd 0x30#6) := by
  decide

theorem test_illformed_wrRsvd :
    ¬WellFormed (.wrRsvd 0x01#6 0) ∧ ¬WellFormed (.wrRsvd 0x1F#6 0) ∧ ¬WellFormed (.wrRsvd 0x20#6 0) ∧
      ¬WellFormed (.wrRsvd 0x3F#6 0) := by decide

theorem test_illformed_cmdRsvd :
    ¬WellFormed (.cmdRsvd 0) ∧ ¬WellFormed (.cmdRsvd 1) ∧ ¬WellFormed (.cmdRsvd 2) := by decide

theorem test_wellformed_reserved :
    WellFormed (.rdRsvd 0x04#6) ∧ WellFormed (.rdRsvd 0x0F#6) ∧ WellFormed (.wrRsvd 0x28#6 1) ∧ WellFormed (.wrRsvd 0x2F#6 1) ∧
      WellFormed (.cmdRsvd 3) ∧ WellFormed (.cmdRsvd 0x10) := by decide

/-! ## Decoding: words written out bit by bit from 30_encoding.md R71 to R76 -/

theorem test_decode_id_cmd (v : Word) :
    decode (.bus 0b0000000#7 v) = .rdId ∧ decode (.bus 0b1000000#7 v) = .wrId v ∧
      decode (.bus 0b0000001#7 v) = .rdCmd ∧ decode (.bus 0b1000001#7 v) = .wrCmd v := by
  exact ⟨rfl, rfl, rfl, rfl⟩

theorem test_decode_status_blkcnt (v : Word) :
    decode (.bus 0b0000010#7 v) = .rdStatus ∧ decode (.bus 0b1000010#7 v) = .wrStatus v ∧
      decode (.bus 0b0000011#7 v) = .rdBlkcnt ∧ decode (.bus 0b1000011#7 v) = .wrBlkcnt v := by
  exact ⟨rfl, rfl, rfl, rfl⟩

theorem test_decode_windows (v : Word) :
    decode (.bus 0b0010110#7 v) = .rdMsg 6 ∧ decode (.bus 0b1011001#7 v) = .wrMsg 9 v ∧
      decode (.bus 0b0100011#7 v) = .rdH 3 ∧ decode (.bus 0b1100110#7 v) = .wrH 6 v ∧
      decode (.bus 0b0111001#7 v) = .rdHex 9 ∧ decode (.bus 0b1111100#7 v) = .wrHex 12 v := by
  exact ⟨rfl, rfl, rfl, rfl, rfl, rfl⟩

theorem test_decode_reserved (v : Word) :
    decode (.bus 0b0001111#7 v) = .rdRsvd 0b001111#6 ∧ decode (.bus 0b0101000#7 v) = .rdRsvd 0b101000#6 ∧
      decode (.bus 0b1000100#7 v) = .wrRsvd 0b000100#6 v ∧ decode (.bus 0b1101111#7 v) = .wrRsvd 0b101111#6 v := by
  exact ⟨rfl, rfl, rfl, rfl⟩

theorem test_decode_commands :
    decode (.cmd 0b00000000000000000000000000000000#32) = .nop ∧ decode (.cmd 0b00000000000000000000000000000001#32) = .init ∧
      decode (.cmd 0b00000000000000000000000000000010#32) = .compress ∧
      decode (.cmd 0b00000000000000000000000000010010#32) = .cmdRsvd 0x12#32 := by
  exact ⟨rfl, rfl, rfl, rfl⟩

theorem test_encode_words :
    encode (.wrMsg 3 9) = .bus 0x53#7 9 ∧ encode (.rdH 4) = .bus 0x24#7 0 ∧ encode (.wrHex 15 1) = .bus 0x7F#7 1 ∧
      encode (.wrRsvd 0x28#6 2) = .bus 0x68#7 2 ∧ encode (.cmdRsvd 0x80000001) = .cmd 0x80000001#32 := by decide

theorem test_not_a_code :
    decodeTableWord 16 0 = none ∧ decodeTableWord 8 0x80 = none ∧ decodeTableWord 32 0x100000000 = none := by decide

/-- A transaction put first is what the next step runs (§2.10 row 1, as a command word). -/
theorem test_withFetchWord_cmd :
    (after (step (State.reset.withFetchWord 32 3))).map (fun t => (t.statusWord, t.cycles)) = some (4#32, []) := by
  decide +kernel

theorem test_withFetchWord_bus :
    (after (step (State.reset.withFetchWord 8 0))).map (fun t => (t.rdata, t.busy)) = some (0x53484131#32, false) := by
  decide +kernel

/-! ## One instruction each (44_host_commands.md) -/

theorem test_rdId : (after (exec .rdId idleSt)).map State.rdata = some 0x53484131#32 := by decide

theorem test_wrId : after (exec (.wrId 5) idleSt) = some idleSt := by decide

theorem test_rdCmd : (after (exec .rdCmd idleSt)).map State.rdata = some 0#32 := by decide

theorem test_wrCmd_starts : (after (exec (.wrCmd 2) idleSt)).map (fun t => (t.phase, t.win)) = some (.round, idleSt.msg) := by
  decide

/-- §2.10 row 3: the reserved check comes first. -/
theorem test_wrCmd_reserved_while_busy :
    (after (exec (.wrCmd 0x11) (roundSt 0))).map State.statusWord = some 5#32 := by decide

theorem test_rdStatus :
    (after (exec .rdStatus { roundSt 3 with errCmd := true })).map State.rdata = some 5#32 := by decide

/-- §2.10 row 4. -/
theorem test_wrStatus_clears_one :
    (after (exec (.wrStatus 2) { roundSt 3 with errBusy := true, errCmd := true })).map State.statusWord = some 5#32 := by decide

/-- §2.10 rows 5 and 6. -/
theorem test_wrStatus_all :
    (after (exec (.wrStatus 1) { idleSt with errBusy := true, errCmd := true })).map State.statusWord = some 6#32 ∧
      (after (exec (.wrStatus 0xFFFFFFFF) { idleSt with errBusy := true, errCmd := true })).map State.statusWord = some 0#32 := by
  decide

theorem test_rdBlkcnt : (after (exec .rdBlkcnt idleSt)).map State.rdata = some 7#32 := by decide

theorem test_wrBlkcnt : after (exec (.wrBlkcnt 0) idleSt) = some idleSt := by decide

theorem test_rdMsg_while_busy : (after (exec (.rdMsg 15) (roundSt 0))).map State.rdata = some 0xBF#32 := by decide

theorem test_wrMsg :
    (after (exec (.wrMsg 14 1) idleSt)).map (fun t => (t.msg[13], t.msg[14], t.msg[15])) = some (0xBD#32, 1#32, 0xBF#32) := by
  decide

theorem test_wrMsg_while_busy :
    after (exec (.wrMsg 14 1) finishSt) = some { finishSt with errBusy := true } := by decide

theorem test_rdH_and_hole :
    (after (exec (.rdH 4) idleSt)).map State.rdata = some 0xA0000004#32 ∧
      (after (exec (.rdH 5) idleSt)).map State.rdata = some 0#32 := by decide

theorem test_wrH : after (exec (.wrH 0 1) idleSt) = some idleSt := by decide

/-- §2.7: HEX9 of "" and the hole. -/
theorem test_rdHex_and_hole :
    (after (exec (.rdHex 9) { idleSt with h := #v[0, 0, 0, 0, 0xAFD80709] })).map State.rdata = some 0x30373039#32 ∧
      (after (exec (.rdHex 10) idleSt)).map State.rdata = some 0#32 := by decide

theorem test_wrHex : after (exec (.wrHex 3 1) idleSt) = some idleSt := by decide

theorem test_rdRsvd : (after (exec (.rdRsvd 0x2F#6) idleSt)).map State.rdata = some 0#32 := by decide

theorem test_wrRsvd : after (exec (.wrRsvd 0x28#6 1) idleSt) = some idleSt := by decide

theorem test_nop : after (exec .nop (roundSt 9)) = some (roundSt 9) := by decide

/-- §2.10 row 7: INIT leaves the error bits. -/
theorem test_init :
    (after (exec .init { idleSt with errBusy := true, errCmd := true })).map (fun t => (t.h, t.blkcnt, t.statusWord, t.msg)) =
      some (iv, 0#32, 6#32, idleSt.msg) := by decide

/-- §2.10 row 2. -/
theorem test_init_while_busy : (after (exec .init (roundSt 1))).map (fun t => (t.h, t.statusWord)) = some (idleSt.h, 3#32) := by
  decide

theorem test_compress :
    (after (exec .compress { idleSt with t := 5 })).map (fun t => (t.vars, t.t, t.h)) =
      some (⟨0xA0000000, 0xA0000001, 0xA0000002, 0xA0000003, 0xA0000004⟩, 0, idleSt.h) := by decide

theorem test_cmdRsvd_while_busy :
    after (exec (.cmdRsvd 3) (roundSt 1)) = some { roundSt 1 with errCmd := true } := by decide

/-! ## Datapath (§2.3) -/

theorem test_rotl :
    rotl 0x80000000 1 = 1#32 ∧ rotl 0x67452301 5 = 0xE8A4602C#32 ∧ rotl 0xEFCDAB89 30 = 0x7BF36AE2#32 ∧
      rotl 0x12345678 31 = 0x091A2B3C#32 ∧ rotl 1 30 = 0x40000000#32 := by decide

theorem test_round_functions :
    fCh 0xFFFFFFFF 0x12345678 0x9ABCDEF0 = 0x12345678#32 ∧ fPar 0xFFFFFFFF 0x12345678 0x9ABCDEF0 = 0x77777777#32 ∧
      fMaj 0xFFFFFFFF 0x12345678 0x9ABCDEF0 = 0x9ABCDEF8#32 ∧ fCh 0xF0F0F0F0 0xFF00FF00 0x0FF00FF0 = 0xFF00FF00#32 ∧
      fPar 0xF0F0F0F0 0xFF00FF00 0x0FF00FF0 = 0#32 ∧ fMaj 0xF0F0F0F0 0xFF00FF00 0x0FF00FF0 = 0xFFF0FFF0#32 := by decide

/-- §2.4, the round function's value at the first and the last round of each group. -/
theorem test_round_selection :
    roundF (roundGroup 19) 0x82AA6728 0xD3A49608 0xC82F758B = 0xCAA5168B#32 ∧
      roundF (roundGroup 20) 0xDC64901D 0x20AA99CA 0xD3A49608 = 0x2F6A9FDF#32 ∧
      roundF (roundGroup 40) 0x4C986405 0xF718E5CF 0x03D447F6 = 0x479865C7#32 ∧
      roundF (roundGroup 59) 0xD262FF50 0xF211824F 0xD79915AB = 0xD211974B#32 ∧
      roundF (roundGroup 60) 0x09D785FD 0x3498BFD4 0xF211824F = 0xCF5EB866#32 ∧
      roundF (roundGroup 79) 0x860D21CC 0x681E6DF6 0xD8FDF6AD = 0x36EEBA97#32 ∧
      (roundK (roundGroup 39), roundK (roundGroup 59), roundK (roundGroup 60)) = (0x6ED9EBA1#32, 0x8F1BBCDC#32, 0xCA62C1D6#32) := by
  decide

/-! ## Schedule, rounds and accumulation (§2.2, §2.5, §2.6) -/

theorem test_schedule_abc :
    scheduleWord abcBlock 16 = 0xC2C4C700#32 ∧ scheduleWord abcBlock 19 = 0x85898E01#32 ∧
      scheduleWord abcBlock 22 = 0x0B131C03#32 ∧ scheduleWord abcBlock 79 = 0x822E0879#32 := by decide +kernel

/-- §2.2: bit 31 is carried into bit 0. -/
theorem test_schedStep_empty :
    (schedStep #v[0x80000000, 0, 0, 0, 0, 0, 0, 0, 0, 0, 0, 0, 0, 0, 0, 0] 16).1 = 1#32 := by decide

theorem test_round_abc :
    cfRounds (Vars.ofHash iv) (schedule abcBlock) 1 = ⟨0x0116FC33, 0x67452301, 0x7BF36AE2, 0x98BADCFE, 0x10325476⟩ ∧
      cfRounds (Vars.ofHash iv) (schedule abcBlock) 41 = ⟨0xFC87DEDF, 0x32DE1CBA, 0x53261901, 0xF718E5CF, 0x03D447F6⟩ ∧
      cf (Vars.ofHash iv) abcBlock = ⟨0x42541B35, 0x5738D5E1, 0x21834873, 0x681E6DF6, 0xD8FDF6AD⟩ := by decide +kernel

theorem test_engine_abc :
    (State.engineRun 81 { State.reset with msg := abcBlock }.acceptBlock).h =
      #v[0xA9993E36, 0x4706816A, 0xBA3E2571, 0x7850C26C, 0x9CD0D89D] := by decide +kernel

/-- §2.6, the block again after its own digest. -/
theorem test_hashBlock_twice :
    hashBlock #v[0xA9993E36, 0x4706816A, 0xBA3E2571, 0x7850C26C, 0x9CD0D89D] abcBlock =
      #v[0x43D6155C, 0x8EF83749, 0x1625BBF8, 0xE443C57E, 0x3C793422] := by decide +kernel

/-- §2.6, the wrap corner cases. -/
theorem test_finish_wraps :
    let t := { finishSt with h := #v[0xA0000000, 0xFFFFFFFF, 0, 0, 0], blkcnt := 0xFFFFFFFF }.engineStep
    (t.h[0], t.h[1], t.blkcnt, t.done, t.phase) = (0#32, 0#32, 0#32, true, .idle) := by decide

/-! ## Hex encoder (§2.7) -/

theorem test_hexWord_iv :
    (List.finRange 10).map (hexWord iv) =
      [0x36373435, 0x32333031, 0x65666364, 0x61623839, 0x39386261, 0x64636665, 0x31303332, 0x35343736, 0x63336432, 0x65316630] := by
  decide +kernel

theorem test_hexStr_leading_zeros :
    (hexStr #v[0xA, 0, 0, 0, 0]).take 8 = [0x30, 0x30, 0x30, 0x30, 0x30, 0x30, 0x30, 0x61] := by decide +kernel

/-! ## Formatting (§2.1) and digests (§2.8) -/

theorem test_padding_lengths :
    [0, 1, 3, 55, 56, 63, 64, 119, 120].map padZeros = [55, 54, 52, 0, 63, 56, 55, 0, 63] := by decide

theorem test_lengthField :
    lengthField 3 = [0, 0, 0, 0, 0, 0, 0, 0x18] ∧ lengthField 56 = [0, 0, 0, 0, 0, 0, 1, 0xC0] ∧
      lengthField (2 ^ 29) = [0, 0, 0, 1, 0, 0, 0, 0] := by decide

/-- R74: a read's data means nothing, a write's is kept. -/
theorem test_bare :
    (Code.bus 0x02#7 5).bare = .bus 0x02#7 0 ∧ (Code.bus 0x50#7 5).bare = .bus 0x50#7 5 ∧ (Code.cmd 5).bare = .cmd 5 := by decide

theorem test_format_abc : (formatMessage abc).toOption = some [abcBlock] := by decide +kernel

theorem test_format_56 :
    (formatMessage (List.replicate 56 0x61)).toOption.map (fun ws => (ws.length, ws[1]?)) =
      some (2, some #v[0, 0, 0, 0, 0, 0, 0, 0, 0, 0, 0, 0, 0, 0, 0, 0x1C0]) := by decide +kernel

/-- "da39a3ee5e6b4b0d3255bfef95601890afd80709". -/
theorem test_sha1_empty :
    (sha1 []).toOption = some
      ([0x64, 0x61, 0x33, 0x39, 0x61, 0x33, 0x65, 0x65, 0x35, 0x65, 0x36, 0x62, 0x34, 0x62, 0x30, 0x64, 0x33, 0x32, 0x35, 0x35] ++
        [0x62, 0x66, 0x65, 0x66, 0x39, 0x35, 0x36, 0x30, 0x31, 0x38, 0x39, 0x30, 0x61, 0x66, 0x64, 0x38, 0x30, 0x37, 0x30, 0x39]) := by
  decide +kernel

/-- 56 × "a", both blocks. -/
theorem test_fold_56 :
    (formatMessage (List.replicate 56 0x61)).toOption.map (fun ws => ws.foldl hashBlock iv) =
      some #v[0xC2DB330F, 0x6083854C, 0x99D4B5BF, 0xB6E8F29F, 0x201BE699] := by decide +kernel

/-! ## The hypotheses of the statements can be met -/

/-- BusDecodeRows, PlainReadsAnswer and IgnoredWritesChangeNothing: both ranges of reserved addresses at both ends, and their
neighbours outside. -/
theorem test_witness_reservedAddresses :
    let r : BitVec 6 → Prop := fun a => (0x04#6 ≤ a ∧ a ≤ 0x0F#6) ∨ (0x28#6 ≤ a ∧ a ≤ 0x2F#6)
    r 0x04#6 ∧ r 0x0F#6 ∧ r 0x28#6 ∧ r 0x2F#6 ∧ ¬r 0x03#6 ∧ ¬r 0x10#6 ∧ ¬r 0x27#6 ∧ ¬r 0x30#6 := by decide

theorem test_witness_DecodeOfEncode :
    WellFormed .rdId ∧ WellFormed (.wrHex 15 3) ∧ WellFormed (.rdRsvd 0x2F#6) ∧ WellFormed (.cmdRsvd 0xFFFFFFFF) := by decide

theorem test_witness_StepRunsPresentedInstruction :
    ∃ (s t : State) (c : Cycle) (rest : List Cycle), s.cycles = c :: rest ∧ c.rst = false ∧ c.sel = true ∧
      exec (decode (.bus (tcOf c.we c.addr) c.wdata))
        { s with cycles := rest, rdata := Config.freeRdata s.freeNext, freeNext := s.freeNext + 1, done := false } = .next t :=
  ⟨inCycle (roundSt 4) (cycleOf (wr (.msg 2) 9) 5), _, _, _, rfl, rfl, rfl, rfl⟩

theorem test_witness_IdleCycleHasNoHostStep :
    ∃ (s : State) (c : Cycle) (rest : List Cycle), s.cycles = c :: rest ∧ c.rst = false ∧ c.sel = false :=
  ⟨inCycle finishSt (idleCycle 1), _, _, rfl, rfl, rfl⟩

theorem test_witness_ResetEdgeFromAnyState :
    ∃ (s : State) (c : Cycle) (rest : List Cycle), s.cycles = c :: rest ∧ c.rst = true ∧ s.busy = true :=
  ⟨inCycle finishSt resetCycle, _, _, rfl, rfl, rfl⟩

/-- MessageWrite, InitStartsRun, CompressHandsBlockToEngine, WrCmdRunsSelectedCommand, RoundStep and FinishStep: each phase,
and two different indices. -/
theorem test_witness_phases :
    idleSt.phase = .idle ∧ (roundSt 79).phase ≠ .idle ∧ finishSt.phase ≠ .idle ∧ (roundSt 78).phase = .round ∧
      finishSt.phase = .finish ∧ (0 : Fin 16) ≠ 15 ∧ (0x1F#6).toNat ≠ 0x10 + (14 : Fin 16).val := by decide

/-- ReservedCommandSetsErrCmd and WrCmdRunsSelectedCommand. -/
theorem test_witness_commandWords :
    (3#32 ≠ 0#32 ∧ 3#32 ≠ 1#32 ∧ 3#32 ≠ 2#32) ∧ (0xFFFFFFFF#32 ≠ 0#32 ∧ 0xFFFFFFFF#32 ≠ 1#32 ∧ 0xFFFFFFFF#32 ≠ 2#32) := by
  decide

/-- RegisterMapAccess: every clause at both ends of its range, with the value 10_state.md R38 gives. -/
theorem test_witness_RegisterMapAccess :
    [0x00#6, 0x01#6, 0x02#6, 0x03#6, 0x04#6, 0x0F#6, 0x10#6, 0x1F#6, 0x20#6, 0x24#6].map (roundSt 0).regMap =
        [0x53484131, 0, 1, 7, 0, 0, 0xB0, 0xBF, 0xA0000000, 0xA0000004] ∧
      [0x25#6, 0x2F#6, 0x30#6, 0x39#6, 0x3A#6, 0x3F#6].map (roundSt 0).regMap =
        [0, 0, 0x61303030, 0x30303034, 0, 0] := by decide +kernel

/-- RegisterMapAccess: the write clauses, at both ends of their ranges. -/
theorem test_witness_RegisterMapAccess_writes :
    let ignored : BitVec 6 → Prop := fun a => a.toNat = 0x00 ∨ (0x03 ≤ a.toNat ∧ a.toNat ≤ 0x0F) ∨ 0x20 ≤ a.toNat
    ignored 0x00 ∧ ignored 0x03 ∧ ignored 0x0F ∧ ignored 0x20 ∧ ignored 0x3F ∧ ¬ignored 0x01 ∧ ¬ignored 0x02 ∧
      ¬ignored 0x10 ∧ ¬ignored 0x1F := by decide

/-- RegisterMapFrame: every way in which a read can change. -/
theorem test_witness_RegisterMapFrame_status :
    readAfter (.wrStatus 2) { idleSt with errBusy := true } 0x02 ≠ some 2#32 ∧ readAfter (.wrCmd 3) idleSt 0x02 ≠ some 0#32 ∧
      readAfter (.wrMsg 0 0) (roundSt 0) 0x02 ≠ some 1#32 ∧ readAfter .init (roundSt 0) 0x02 ≠ some 1#32 ∧
      readAfter .compress idleSt 0x02 ≠ some 0#32 ∧ readAfter (.cmdRsvd 3) idleSt 0x02 ≠ some 0#32 := by decide

theorem test_witness_RegisterMapFrame_others :
    readAfter (.wrMsg 15 0) idleSt 0x1F ≠ some (idleSt.regMap 0x1F) ∧ readAfter .init idleSt 0x03 ≠ some (idleSt.regMap 0x03) ∧
      readAfter .init idleSt 0x20 ≠ some (idleSt.regMap 0x20) ∧ readAfter (.wrCmd 1) idleSt 0x24 ≠ some (idleSt.regMap 0x24) ∧
      readAfter .init idleSt 0x30 ≠ some (idleSt.regMap 0x30) ∧ readAfter (.wrCmd 1) idleSt 0x39 ≠ some (idleSt.regMap 0x39) := by
  decide +kernel

theorem test_witness_HostStepsKeepEngineRegisters :
    (∃ t, exec .compress idleSt = .next t ∧ t.phase ≠ idleSt.phase) ∧ ∃ t, exec (.wrMsg 0 1) (roundSt 3) = .next t :=
  ⟨⟨_, rfl, by decide⟩, _, rfl⟩

/-- HashStateChangesOnlyBy: reset, INIT and completion each change H. -/
theorem test_witness_HashStateChangesOnlyBy :
    (after (step (inCycle idleSt resetCycle))).map (fun t => t.h ≠ idleSt.h) = some True ∧
      (after (step (inCycle idleSt (cycleOf cmdInit 0)))).map (fun t => t.h) = some iv ∧
      (after (step (inCycle finishSt (idleCycle 1)))).map (fun t => (t.h[0], t.busy, t.done)) = some (0#32, false, true) := by
  refine ⟨?_, by decide +kernel, by decide +kernel⟩
  show some _ = some _
  exact congrArg some (eq_true (by decide))

/-- ErrorBitsChangeOnlyBy: each bit is set and cleared. -/
theorem test_witness_ErrorBitsChangeOnlyBy :
    (after (step (inCycle (roundSt 0) (cycleOf cmdInit 0)))).map State.errBusy = some true ∧
      (after (step (inCycle idleSt (cycleOf (wr .cmd 3) 0)))).map State.errCmd = some true ∧
      (after (step (inCycle { idleSt with errBusy := true } (cycleOf clrErr 0)))).map State.errBusy = some false ∧
      (after (step (inCycle { idleSt with errCmd := true } resetCycle))).map State.errCmd = some false := by decide +kernel

/-- BusyChangesOnlyBy: BUSY rises, and falls in both ways. -/
theorem test_witness_BusyChangesOnlyBy :
    (after (step (inCycle idleSt (cycleOf cmdCompress 81)))).map State.busy = some true ∧
      (after (step (inCycle (roundSt 79) (idleCycle 2)))).map (fun t => (t.busy, t.done)) = some (false, true) ∧
      (after (step (inCycle (roundSt 79) resetCycle))).map (fun t => (t.busy, t.done)) = some (false, false) := by decide +kernel

theorem test_witness_DonePulse : ∃ s t u : State, step s = .next t ∧ step t = .next u ∧ t.done = true :=
  ⟨inCycle finishSt (idleCycle 1), _, _, rfl, rfl, rfl⟩

/-- BlockCounterCounts: its four clauses, the last one idle and in flight. -/
theorem test_witness_BlockCounterCounts :
    (after (step (inCycle idleSt resetCycle))).map State.blkcnt = some 0#32 ∧
      (after (step (inCycle idleSt (cycleOf cmdInit 0)))).map State.blkcnt = some 0#32 ∧
      (after (step (inCycle finishSt (cycleOf cmdInit 1)))).map State.blkcnt = some 8#32 ∧
      (after (step (inCycle idleSt (idleCycle 0)))).map State.blkcnt = some 7#32 ∧
      (after (step (inCycle (roundSt 79) (idleCycle 1)))).map (fun t => (t.busy, t.blkcnt)) = some (true, 7#32) := by
  decide +kernel

theorem test_witness_MessageBufferChangesOnlyBy :
    (after (step (inCycle idleSt resetCycle))).map (fun t => t.msg[5]) = some 0#32 ∧
      (after (step (inCycle idleSt (cycleOf (wr (.msg 5) 1) 0)))).map (fun t => t.msg[5]) = some 1#32 := by decide +kernel

theorem test_witness_HashHeldDuringCompress :
    (State.engineRun 0 idleSt.acceptBlock).busy = true ∧ (State.engineRun 80 idleSt.acceptBlock).busy = true ∧
      (roundSt 79).busy = true ∧ (after (step (inCycle (roundSt 79) (cycleOf cmdInit 1)))).map State.busy = some true := by
  decide +kernel

theorem test_witness_HostCannotDisturbCompress :
    ∃ (s t u : State) (c d : Cycle) (rest : List Cycle), s.busy = true ∧ c.rst = false ∧ d.rst = false ∧ c.engine = d.engine ∧
      step { s with cycles := c :: rest } = .next t ∧ step { s with cycles := d :: rest } = .next u ∧ c ≠ d :=
  ⟨roundSt 78, _, _, cycleOf (wr (.msg 0) 1) 2, cycleOf cmdCompress 2, [], rfl, rfl, rfl, rfl, rfl, rfl, by decide⟩

theorem test_witness_IdleEngineHolds : ∃ s : State, s.phase = .idle ∧ s.now.rst = false ∧ s.now.sel = false :=
  ⟨inCycle idleSt (idleCycle 9), rfl, rfl, rfl⟩

/-- ScheduleStep, ScheduleWords, RoundSelection, RoundStep, EightyRoundsThenFinish: the ends of the ranges of t. -/
theorem test_witness_roundNumbers :
    (15 : Fin 80).val < 16 ∧ 16 ≤ (16 : Fin 80).val ∧ 16 ≤ (79 : Fin 80).val ∧ (0 : Fin 16).val ≠ (17 : Fin 80).val % 16 ∧
      (19 : Fin 80).val < 20 ∧ (20 ≤ (20 : Fin 80).val ∧ (39 : Fin 80).val < 40) ∧ (40 ≤ (40 : Fin 80).val ∧ (59 : Fin 80).val < 60) ∧
      60 ≤ (60 : Fin 80).val ∧ (roundSt 78).t.val < 79 ∧ (roundSt 79).t.val = 79 := by decide

/-- RotateLeftBits at both ends, and a sum of amounts at the end. -/
theorem test_witness_RotateLeftBits : (1 ≤ 1 ∧ 1 ≤ 31) ∧ (1 ≤ 31 ∧ 31 ≤ 31) ∧ (1 ≤ 30 + 1 ∧ 30 + 1 ≤ 31) := by decide

theorem test_witness_EngineOnCourseKept :
    ∃ s t : State, EngineOnCourse s ∧ s.phase = .round ∧ s.t = 0 ∧ step s = .next t := by
  refine ⟨inCycle (State.acceptBlock { State.reset with msg := abcBlock }) (cycleOf (wr (.msg 0) 1) 1), _, ?_, rfl, rfl, rfl⟩
  refine ⟨rfl, ?_⟩
  show ∀ u : Fin 80, _
  decide +kernel

theorem test_witness_CompletionAddsCF :
    ∃ s t : State, EngineOnCourse s ∧ s.busy = true ∧ s.now.rst = false ∧ step s = .next t ∧ t.busy = false := by
  refine ⟨inCycle { finishSt with vars := cf (Vars.ofHash finishSt.h) finishSt.msg } (idleCycle 1), _, ?_, rfl, rfl, rfl, rfl⟩
  exact ⟨rfl, rfl⟩

/-- EngineIsFair: a run, a host that reads STATUS with a cycle without a transaction between its reads, and no cycle waiting. -/
theorem test_witness_EngineIsFair :
    (∃ (s t : State) (cs : List Cycle), Runs s cs t ∧ 81 ≤ (cs.map Cycle.engine).sum) ∧
      (∃ (s : State) (cs : List Cycle) (c : Cycle) (rest : List Cycle), s.busy = true ∧ s.cycles = cs ++ c :: rest ∧
        (∀ d ∈ cs, d.rst = false ∧ (d.presents = none ∨ d.presents.map Code.bare = some (rd .status))) ∧
        c.presents.map Code.bare = some (rd .status) ∧ 81 ≤ (cs.map Cycle.engine).sum) ∧
      State.reset.cycles = [] := by
  refine ⟨⟨inCycle (State.acceptBlock State.reset) (idleCycle 81), _, [idleCycle 81], ⟨?_, ⟨[], rfl⟩, rfl⟩, by decide⟩,
    ⟨{ State.acceptBlock State.reset with cycles := [cycleOf (rd .status) 40, idleCycle 41, cycleOf (rd .status) 0] },
      [cycleOf (rd .status) 40, idleCycle 41], cycleOf (rd .status) 0, [], rfl, rfl, by decide, by decide, by decide⟩, rfl⟩
  decide

/-- BusyVisibleAtOnce: acceptance, a read of STATUS while BUSY = 1, and the end. -/
theorem test_witness_BusyVisibleAtOnce :
    (∃ (s t : State) (c : Cycle) (rest : List Cycle), s.cycles = c :: rest ∧ c.rst = false ∧ step s = .next t ∧ s.busy = false ∧
      c.sel = true ∧ decode (.bus (tcOf c.we c.addr) c.wdata) = .wrCmd 2#32) ∧
    (∃ (s t : State) (c : Cycle) (rest : List Cycle), s.cycles = c :: rest ∧ c.rst = false ∧ step s = .next t ∧ s.busy = true ∧
      c.sel = true ∧ decode (.bus (tcOf c.we c.addr) c.wdata) = .rdStatus) ∧
    ∃ (s t : State) (c : Cycle) (rest : List Cycle), s.cycles = c :: rest ∧ c.rst = false ∧ step s = .next t ∧ s.busy = true ∧
      t.busy = false :=
  ⟨⟨inCycle idleSt (cycleOf cmdCompress 81), _, _, _, rfl, rfl, rfl, rfl, rfl, rfl⟩,
    ⟨inCycle finishSt (cycleOf (rd .status) 1), _, _, _, rfl, rfl, rfl, rfl, rfl, rfl⟩,
    inCycle finishSt (idleCycle 1), _, _, _, rfl, rfl, rfl, rfl, rfl⟩

theorem test_witness_ReadAfterWriteNextCycle :
    ∃ (s t u : State) (c d : Cycle) (rest : List Cycle) (i : Fin 16) (v : Word), s.busy = false ∧ s.cycles = c :: d :: rest ∧
      c.rst = false ∧ c.sel = true ∧ decode (.bus (tcOf c.we c.addr) c.wdata) = .wrMsg i v ∧
      d.rst = false ∧ d.sel = true ∧ decode (.bus (tcOf d.we d.addr) d.wdata) = .rdMsg i ∧
      step s = .next t ∧ step t = .next u :=
  ⟨{ idleSt with cycles := [cycleOf (wr (.msg 15) 9) 0, cycleOf (rd (.msg 15)) 0] }, _, _, _, _, _, 15, 9,
    rfl, rfl, rfl, rfl, rfl, rfl, rfl, rfl, rfl, rfl⟩

/-- HostStepFirstInACycle, the write in the completing cycle. -/
theorem test_witness_HostStepFirstInACycle_same :
    ∃ (s t : State) (c : Cycle) (rest : List Cycle) (i : Fin 16) (v : Word), s.phase = .finish ∧ s.cycles = c :: rest ∧
      c.rst = false ∧ 1 ≤ c.engine ∧ step s = .next t ∧ c.sel = true ∧ decode (.bus (tcOf c.we c.addr) c.wdata) = .wrMsg i v :=
  ⟨inCycle finishSt (cycleOf (wr (.msg 0) 9) 1), _, _, _, 0, 9, rfl, rfl, rfl, by decide, rfl, rfl, rfl⟩

/-- HostStepFirstInACycle, the write in the next cycle. -/
theorem test_witness_HostStepFirstInACycle_next :
    ∃ (s t u : State) (c d : Cycle) (rest : List Cycle) (i : Fin 16) (v : Word), s.phase = .finish ∧ s.cycles = c :: d :: rest ∧
      c.rst = false ∧ 1 ≤ c.engine ∧ step s = .next t ∧ c.sel = false ∧ d.rst = false ∧ d.sel = true ∧
      decode (.bus (tcOf d.we d.addr) d.wdata) = .wrMsg i v ∧ step t = .next u :=
  ⟨{ finishSt with cycles := [idleCycle 1, cycleOf (wr (.msg 0) 9) 0] }, _, _, _, _, _, 0, 9,
    rfl, rfl, rfl, by decide, rfl, rfl, rfl, rfl, rfl, rfl⟩

/-- PaddingLengths, PaddedMessageLayout and BlockSplitAndCount: the ends of the ranges of lengths. -/
theorem test_witness_messageLengths :
    ([] : List Byte).length = 0 ∧ (List.replicate 55 (0x61 : Byte)).length % 64 = 55 ∧
      (List.replicate 56 (0x61 : Byte)).length % 64 = 56 ∧ (List.replicate 63 (0x61 : Byte)).length = 63 ∧
      (List.replicate 119 (0x61 : Byte)).length = 119 ∧ (List.replicate 120 (0x61 : Byte)).length = 120 ∧
      (List.replicate 183 (0x61 : Byte)).length = 183 ∧ (55 + 1 + padZeros 55) % 64 = 56 ∧ abc.length ≤ 2 ^ 61 - 1 := by
  simp [abc]
  decide

theorem test_witness_FormatterRefusesLongMessages :
    ∃ m : List Byte, 2 ^ 61 - 1 < m.length ∧ formatMessage m = .error .messageTooLong := by
  have hl : (List.replicate (2 ^ 61) (0x61 : Byte)).length = 2 ^ 61 := List.length_replicate
  exact ⟨List.replicate (2 ^ 61) 0x61, by omega, by
    rw [formatMessage, if_neg]
    unfold Config.maxMessageBytes
    omega⟩

theorem test_witness_BlockWordsBigEndian :
    (List.replicate 64 (0x61 : Byte)).length = 64 ∧ ∃ ws, formatMessage abc = .ok ws := by
  exact ⟨by simp, _, rfl⟩

/-- A run in which the host presents one code in each cycle. -/
theorem plays_of_run {s t : State} (cs : List Cycle) (codes : List Code) (hr : ∀ c ∈ cs, c.rst = false) (hc : ∃ rest, s.cycles = cs ++ rest)
    (hrun : Host.Core.run core cs.length s = .next t) (hp : (cs.filterMap Cycle.presents).map Code.bare = codes.map Code.bare) : Plays s codes t :=
  ⟨cs, ⟨hr, hc, hrun⟩, hp⟩

/-- The cycles of LOADBLK of the "abc" block and CMD COMPRESS, and then those of a POLL that reads twice. The COMPRESS completes
in the first read's cycle, whose value still has bit 0 = 1 (20_memory.md R60); a cycle without a transaction follows, and the
second read's wdata means nothing. -/
def abcLoad : List Cycle := (loadBlk abcBlock ++ [cmdCompress]).map fun c => cycleOf c 0

def abcPoll : List Cycle := [cycleOf (rd .status) 81, idleCycle 0, { cycleOf (rd .status) 0 with wdata := 0xFFFFFFFF }]

/-- The state after a step, which there always is. -/
def nxt (s : State) : State := (after (step s)).getD s

theorem step_nxt (s : State) : step s = .next (nxt s) := by
  cases hr : s.now.rst with
  | true => simp [nxt, step_reset hr, after]
  | false =>
    obtain ⟨u, -, hs⟩ := step_ordinary hr
    simp [nxt, hs, after]

/-- The state after n steps. -/
def nth : Nat → State → State
  | 0, s => s
  | n + 1, s => nth n (nxt s)

theorem run_nth (n : Nat) (s : State) : Host.Core.run core n s = .next (nth n s) := by
  induction n generalizing s with
  | zero => rfl
  | succ n ih =>
    rw [run_succ n (step_nxt s)]
    exact ih (nxt s)

/-- The POLL of `abcPoll`, from any state in which the values it reads are those of a POLL. -/
theorem abc_polls {s : State} (hc : s.cycles = abcPoll) (hv : pollEnds [(nxt s).rdata, (nth 3 s).rdata] = true) :
    Polls s (nth 3 s) := by
  have h1 : (nxt s).cycles = abcPoll.tail := by rw [step_cycles (step_nxt s), hc]
  have h2 : (nth 2 s).cycles = abcPoll.tail.tail := by rw [← h1]; exact step_cycles (step_nxt (nxt s))
  exact ⟨_, hv, .code ⟨_, _, hc, rfl, rfl, step_nxt s⟩ (.idle ⟨_, _, h1, rfl, rfl, step_nxt _⟩
    (.code ⟨_, _, h2, rfl, rfl, step_nxt _⟩ (.done _)))⟩

/-- HASHBLK of the "abc" block, from any state in which it is seen to run so. -/
theorem abc_runs {s : State} (hc : s.cycles = abcLoad ++ abcPoll) (hm : (nth 17 s).cycles = abcPoll)
    (hv : pollEnds [(nth 18 s).rdata, (nth 20 s).rdata] = true) : RunsHashBlk s abcBlock (nth 20 s) :=
  ⟨nth 17 s, plays_of_run abcLoad _ (by decide) ⟨_, hc⟩ (run_nth 17 s) (by decide), abc_polls hm hv⟩

/-- The reset state about to run those cycles. -/
def abcStart : State := { State.reset with cycles := abcLoad ++ abcPoll }

/-- The state after an INIT that comes before them. -/
def abcAfterInit : State := { abcStart with rdata := Config.freeRdata 0, freeNext := 1 }

theorem abcStart_runs : RunsHashBlk abcStart abcBlock (nth 20 abcStart) :=
  abc_runs rfl (by decide +kernel) (by decide +kernel)

theorem abcAfterInit_runs : RunsHashBlk abcAfterInit abcBlock (nth 20 abcAfterInit) :=
  abc_runs rfl (by decide +kernel) (by decide +kernel)

/-- POLL's reads (30_encoding.md R85): at least one, none after the first with bit 0 = 0. -/
theorem test_pollEnds :
    pollEnds [] = false ∧ pollEnds [0x00000001] = false ∧ pollEnds [0x00000006] = true ∧
      pollEnds [0x00000001, 0x00000003, 0x00000002] = true ∧ pollEnds [0x00000000, 0x00000000] = false := by decide

/-- HashBlockHashes: HASHBLK with its POLL, and a run without a read that ends with BUSY = 0. -/
theorem test_witness_HashBlockHashes :
    (∃ (s t : State) (w : Vector Word 16), s.busy = false ∧ RunsHashBlk s w t) ∧
      ∃ (s t : State) (w : Vector Word 16) (n : Nat), s.busy = false ∧ Plays s (hashBlk w n) t ∧ t.busy = false := by
  refine ⟨⟨abcStart, _, _, rfl, abcStart_runs⟩, { State.reset with cycles := abcLoad ++ [idleCycle 81] }, nth 18 _, abcBlock, 0, rfl,
    plays_of_run (abcLoad ++ [idleCycle 81]) _ (by decide) ⟨[], (List.append_nil _).symm⟩ (run_nth 18 _) (by decide), ?_⟩
  decide +kernel

theorem abc_formats : formatMessage abc = .ok [abcBlock] := by
  have h := test_format_abc
  cases hf : formatMessage abc with
  | ok ws => simpa [hf, Except.toOption] using h
  | error e => simp [hf, Except.toOption] at h

/-- HostProtocolGivesSha1, from reset and after an INIT. -/
theorem test_witness_HostProtocolGivesSha1 :
    ∃ (m d : List Byte) (ws : List (Vector Word 16)), formatMessage m = .ok ws ∧ sha1 m = .ok d ∧
      (∃ s t : State, s.busy = false ∧ s.h = iv ∧ s.blkcnt = 0#32 ∧ FeedsBlocks s ws t) ∧
      ∃ s s₀ t : State, s.busy = false ∧ Plays s [cmdInit] s₀ ∧ FeedsBlocks s₀ ws t := by
  refine ⟨abc, _, [abcBlock], abc_formats, by rw [sha1, abc_formats], ?_, ?_⟩
  · exact ⟨abcStart, _, rfl, rfl, rfl, .block abcStart_runs (.done _)⟩
  · refine ⟨{ State.reset with cycles := cycleOf cmdInit 0 :: (abcLoad ++ abcPoll) }, abcAfterInit, _, rfl, ?_,
      .block abcAfterInit_runs (.done _)⟩
    exact plays_of_run [cycleOf cmdInit 0] _ (by decide) ⟨abcLoad ++ abcPoll, rfl⟩ rfl (by decide)

/-- LoadOrderIsFree, in the reverse order. -/
theorem test_witness_LoadOrderIsFree :
    ∃ (s t : State) (w : Vector Word 16) (l : List Code), s.busy = false ∧ l.Perm (loadBlk w) ∧ Plays s l t := by
  let cs := (loadBlk abcBlock).reverse.map fun c => cycleOf c 0
  have h : (after (Host.Core.run core 16 { State.reset with cycles := cs })).map (fun t => !t.busy) = some true := by
    decide +kernel
  obtain ⟨t, ht, -⟩ := of_after h
  exact ⟨{ State.reset with cycles := cs }, t, abcBlock, (loadBlk abcBlock).reverse, rfl, List.reverse_perm _,
    plays_of_run cs _ (by decide) ⟨[], (List.append_nil _).symm⟩ ht (by decide)⟩

end Sys2Proof.Tests
end

/-! SUPPORT. PROOFS of the family 10_state.md: the register map against the decoder and the meanings, and which steps change
H, MSG, BLKCNT, BUSY and the error bits. -/

namespace Sys2Proof

/-! ## Where a word address lands in the BUS table (30_encoding.md R72, 10_state.md R38) -/

/-- The regions of the register map. -/
theorem addr_regions : ∀ a : BitVec 6,
    a = 0x00#6 ∨ a = 0x01#6 ∨ a = 0x02#6 ∨ a = 0x03#6 ∨ reservedAddr a = true ∨
      (∃ i : Fin 16, a.toNat = 0x10 + i.val) ∨ (∃ j : Fin 8, a.toNat = 0x20 + j.val) ∨
      ∃ j : Fin 16, a.toNat = 0x30 + j.val := by decide +kernel

theorem reservedAddr_iff : ∀ a : BitVec 6, reservedAddr a = true ↔
    (0x04 ≤ a.toNat ∧ a.toNat ≤ 0x0F) ∨ (0x28 ≤ a.toNat ∧ a.toNat ≤ 0x2F) := by decide +kernel

theorem tcOf_reservedAddr : ∀ a : BitVec 6, reservedAddr a = true →
    busRow (tcOf false a) = .rdRsvd ∧ busRow (tcOf true a) = .wrRsvd := by decide +kernel

theorem tcOf_msg : ∀ (a : BitVec 6) (i : Fin 16), a.toNat = 0x10 + i.val →
    busRow (tcOf false a) = .rdMsg ∧ busRow (tcOf true a) = .wrMsg ∧ ∀ we : Bool, tcIdx4 (tcOf we a) = i := by
  decide +kernel

theorem tcOf_h : ∀ (a : BitVec 6) (j : Fin 8), a.toNat = 0x20 + j.val →
    busRow (tcOf false a) = .rdH ∧ busRow (tcOf true a) = .wrH ∧ ∀ we : Bool, tcIdx3 (tcOf we a) = j := by
  decide +kernel

theorem tcOf_hex : ∀ (a : BitVec 6) (j : Fin 16), a.toNat = 0x30 + j.val →
    busRow (tcOf false a) = .rdHex ∧ busRow (tcOf true a) = .wrHex ∧ ∀ we : Bool, tcIdx4 (tcOf we a) = j := by
  decide +kernel

/-- A reserved address decodes to the fall-back row of its direction, with the address itself as operand. -/
theorem decode_reservedAddr {a : BitVec 6} (ha : reservedAddr a = true) (v : Word) :
    decode (.bus (tcOf false a) v) = .rdRsvd a ∧ decode (.bus (tcOf true a) v) = .wrRsvd a v := by
  obtain ⟨hr, hw⟩ := tcOf_reservedAddr a ha
  simp [decode, hr, hw, BusRow.instr, tcAddr_tcOf]

theorem decode_msgAddr {a : BitVec 6} {i : Fin 16} (ha : a.toNat = 0x10 + i.val) (v : Word) :
    decode (.bus (tcOf false a) v) = .rdMsg i ∧ decode (.bus (tcOf true a) v) = .wrMsg i v := by
  obtain ⟨hr, hw, hi⟩ := tcOf_msg a i ha
  simp [decode, hr, hw, BusRow.instr, hi]

theorem decode_hAddr {a : BitVec 6} {j : Fin 8} (ha : a.toNat = 0x20 + j.val) (v : Word) :
    decode (.bus (tcOf false a) v) = .rdH j ∧ decode (.bus (tcOf true a) v) = .wrH j v := by
  obtain ⟨hr, hw, hj⟩ := tcOf_h a j ha
  simp [decode, hr, hw, BusRow.instr, hj]

theorem decode_hexAddr {a : BitVec 6} {j : Fin 16} (ha : a.toNat = 0x30 + j.val) (v : Word) :
    decode (.bus (tcOf false a) v) = .rdHex j ∧ decode (.bus (tcOf true a) v) = .wrHex j v := by
  obtain ⟨hr, hw, hj⟩ := tcOf_hex a j ha
  simp [decode, hr, hw, BusRow.instr, hj]

/-- A transaction is never one of the four commands: those reach the machine as the data of a write to CMD (R70). -/
theorem decode_bus_ne_command (tc : BitVec 7) (v : Word) :
    decode (.bus tc v) ≠ .init ∧ decode (.bus tc v) ≠ .compress ∧ ∀ cw, decode (.bus tc v) ≠ .cmdRsvd cw := by
  cases hr : busRow tc <;> simp [decode, hr, BusRow.instr]

namespace Machine

/-! ## The register map, address by address (10_state.md R38) -/

section
variable (s : State) {a : BitVec 6}

theorem regMap_msg {i : Fin 16} (ha : a.toNat = 0x10 + i.val) : s.regMap a = s.msg[i] := by
  unfold State.regMap
  rw [if_neg (by omega), if_neg (by omega), if_neg (by omega), dif_pos (by omega)]
  simp [ha]

theorem regMap_h {k : Fin 5} (ha : a.toNat = 0x20 + k.val) : s.regMap a = s.h[k] := by
  unfold State.regMap
  rw [if_neg (by omega), if_neg (by omega), if_neg (by omega), dif_neg (by omega), dif_pos (by omega)]
  simp [ha]

theorem regMap_hex {j : Fin 10} (ha : a.toNat = 0x30 + j.val) : s.regMap a = hexWord s.h j := by
  unfold State.regMap
  rw [if_neg (by omega), if_neg (by omega), if_neg (by omega), dif_neg (by omega), dif_neg (by omega),
    dif_pos (by omega)]
  simp [ha]

/-- CMD, the reserved addresses and the holes of the H and HEX windows read 0. -/
theorem regMap_zero (ha : a.toNat = 0x01 ∨ (0x04 ≤ a.toNat ∧ a.toNat ≤ 0x0F) ∨ (0x25 ≤ a.toNat ∧ a.toNat ≤ 0x2F) ∨
    0x3A ≤ a.toNat) : s.regMap a = 0#32 := by
  unfold State.regMap
  rw [if_neg (by omega), if_neg (by omega), if_neg (by omega), dif_neg (by omega), dif_neg (by omega),
    dif_neg (by omega)]
  rfl

theorem regMap_hOperand {j : Fin 8} (ha : a.toNat = 0x20 + j.val) : s.regMap a = hOperand s j := by
  by_cases hj : j.val ≤ 4
  · rw [regMap_h s (k := ⟨j.val, by omega⟩) ha]
    simp [hOperand, hj]
  · rw [regMap_zero s (by omega)]
    simp [hOperand, hj]

theorem regMap_hexOperand {j : Fin 16} (ha : a.toNat = 0x30 + j.val) : s.regMap a = hexOperand s j := by
  by_cases hj : j.val ≤ 9
  · rw [regMap_hex s (j := ⟨j.val, by omega⟩) ha]
    simp [hexOperand, hj]
  · rw [regMap_zero s (by omega)]
    simp [hexOperand, hj]

/-- A read transaction at any address answers the register map's word at it. -/
theorem exec_read (a : BitVec 6) (v : Word) :
    exec (decode (.bus (tcOf false a) v)) s = .next (s.answer (s.regMap a)) := by
  rcases addr_regions a with rfl | rfl | rfl | rfl | ha | ⟨i, ha⟩ | ⟨j, ha⟩ | ⟨j, ha⟩
  · rfl
  · rfl
  · rfl
  · rfl
  · have hz : s.regMap a = 0#32 := regMap_zero s (by have := (reservedAddr_iff a).mp ha; omega)
    rw [(decode_reservedAddr ha v).1, hz]
    rfl
  · rw [(decode_msgAddr ha v).1, regMap_msg s ha]
    rfl
  · rw [(decode_hAddr ha v).1, regMap_hOperand s ha]
    rfl
  · rw [(decode_hexAddr ha v).1, regMap_hexOperand s ha]
    rfl

/-- A write transaction at an address that is neither CMD, STATUS nor in the MSG window is ignored. -/
theorem exec_write_ignored (v : Word) (ha : a.toNat = 0x00 ∨ (0x03 ≤ a.toNat ∧ a.toNat ≤ 0x0F) ∨ 0x20 ≤ a.toNat) :
    exec (decode (.bus (tcOf true a) v)) s = .next s := by
  rcases addr_regions a with rfl | rfl | rfl | rfl | hr | ⟨i, hi⟩ | ⟨j, hj⟩ | ⟨j, hj⟩
  · rfl
  · exact absurd ha (by decide)
  · exact absurd ha (by decide)
  · rfl
  · rw [(decode_reservedAddr hr v).2]
    rfl
  · omega
  · rw [(decode_hAddr hj v).2]
    rfl
  · rw [(decode_hexAddr hj v).2]
    rfl

/-- A write transaction in the MSG window while BUSY = 0 writes its word. -/
theorem exec_write_msg {i : Fin 16} (v : Word) (ha : a.toNat = 0x10 + i.val) (hb : s.busy = false) :
    exec (decode (.bus (tcOf true a) v)) s = .next (s.writeMsg i v) := by
  rw [(decode_msgAddr ha v).2]
  exact congrArg Host.Outcome.next (State.unlessBusy_of_idle hb)

/-- WR_STATUS, with the write-1-to-clear written as a choice. -/
theorem clearErrors_eq (v : Word) : s.clearErrors v =
    { s with
      errBusy := if v.getLsbD 1 = true then false else s.errBusy
      errCmd := if v.getLsbD 2 = true then false else s.errCmd } := by
  have hw1c : ∀ bit clear : Bool, afterW1c bit clear = if clear = true then false else bit := by decide
  simp [State.clearErrors, hw1c, clearsErrBusy, clearsErrCmd]

end

/-- Settles O21: `exec_read` gives the answer as the word of the register map, whose value at each address is a lemma
above; the writes go by region. -/
theorem registerMapAccess : Obligations.RegisterMapAccess := by
  intro s a v
  refine ⟨⟨s.regMap a, exec_read s a v, ?_, ?_, ?_, ?_, ?_, fun i ha => regMap_msg s ha, fun k ha => regMap_h s ha, ?_,
    fun j ha => regMap_hex s ha, ?_, rfl⟩, exec_write_ignored s v, ?_, ?_, ?_, rfl⟩
  · intro ha
    rw [BitVec.eq_of_toNat_eq (y := 0x00#6) ha]
    rfl
  · exact fun ha => regMap_zero s (by omega)
  · intro ha
    rw [BitVec.eq_of_toNat_eq (y := 0x02#6) ha]
    rfl
  · intro ha
    rw [BitVec.eq_of_toNat_eq (y := 0x03#6) ha]
    rfl
  · exact fun _ _ => regMap_zero s (by omega)
  · exact fun _ _ => regMap_zero s (by omega)
  · exact fun _ => regMap_zero s (by omega)
  · intro ha
    rw [BitVec.eq_of_toNat_eq (y := 0x01#6) ha]
    rfl
  · intro ha
    rw [BitVec.eq_of_toNat_eq (y := 0x02#6) ha, ← clearErrors_eq]
    rfl
  · exact fun i ha hp => exec_write_msg s v ha ((State.busy_false s).mpr hp)

end Machine
end Sys2Proof

namespace Sys2Proof.Machine

/-! ## What a host step changes, field by field -/

section
variable {s t : State} {i : Instr}

/-- H and BLKCNT: an accepted INIT starts a run, and nothing else writes them. -/
theorem HostEffect.starts_or_keeps (he : HostEffect s i t) :
    (s.busy = false ∧ (i = .wrCmd 1#32 ∨ i = .init) ∧ t = s.startRun) ∨ (t.h = s.h ∧ t.blkcnt = s.blkcnt) := by
  cases he with
  | started which idle => exact Or.inl ⟨idle, which, rfl⟩
  | _ => exact Or.inr ⟨rfl, rfl⟩

/-- A..E, WIN, PHASE and T: an accepted COMPRESS loads them, and no other host step writes them. -/
theorem HostEffect.accepts_or_keeps (he : HostEffect s i t) :
    (s.busy = false ∧ (i = .wrCmd 2#32 ∨ i = .compress) ∧ t = s.acceptBlock) ∨
      (t.vars = s.vars ∧ t.win = s.win ∧ t.phase = s.phase ∧ t.t = s.t) := by
  cases he with
  | accepted which idle => exact Or.inl ⟨idle, which, rfl⟩
  | _ => exact Or.inr ⟨rfl, rfl, rfl, rfl⟩

/-- MSG: only an accepted WR_MSG writes it. -/
theorem HostEffect.writesMsg_or_keeps (he : HostEffect s i t) :
    (s.busy = false ∧ ∃ k v, i = .wrMsg k v ∧ t.msg = s.msg.set k v) ∨ t.msg = s.msg := by
  cases he with
  | wroteMsg k v idle => exact Or.inl ⟨idle, k, v, rfl, rfl⟩
  | _ => exact Or.inr rfl

/-- ERR_BUSY: set by a rejected operation, cleared by a STATUS write with bit 1, else kept. -/
theorem HostEffect.errBusy_cases (he : HostEffect s i t) :
    (t.errBusy = true ∧ s.busy = true ∧
        ((∃ k v, i = .wrMsg k v) ∨ i = .wrCmd 1#32 ∨ i = .wrCmd 2#32 ∨ i = .init ∨ i = .compress)) ∨
      (t.errBusy = false ∧ ∃ v, i = .wrStatus v ∧ v.getLsbD 1 = true) ∨ t.errBusy = s.errBusy := by
  cases he with
  | rejectedBusy which busy => exact Or.inl ⟨rfl, busy, which⟩
  | cleared v =>
    cases hv : clearsErrBusy v with
    | false => exact Or.inr (Or.inr (by simp [afterW1c, hv]))
    | true => exact Or.inr (Or.inl ⟨by simp [afterW1c, hv], v, rfl, hv⟩)
  | _ => exact Or.inr (Or.inr rfl)

/-- ERR_CMD: set by a reserved command, cleared by a STATUS write with bit 2, else kept. -/
theorem HostEffect.errCmd_cases (he : HostEffect s i t) :
    (t.errCmd = true ∧ ((∃ cw, i = .wrCmd cw ∧ reservedCommand cw = true) ∨ ∃ cw, i = .cmdRsvd cw)) ∨
      (t.errCmd = false ∧ ∃ v, i = .wrStatus v ∧ v.getLsbD 2 = true) ∨ t.errCmd = s.errCmd := by
  cases he with
  | rejectedCmd which => exact Or.inl ⟨rfl, which⟩
  | cleared v =>
    cases hv : clearsErrCmd v with
    | false => exact Or.inr (Or.inr (by simp [afterW1c, hv]))
    | true => exact Or.inr (Or.inl ⟨by simp [afterW1c, hv], v, rfl, hv⟩)
  | _ => exact Or.inr (Or.inr rfl)

end

/-- Settles O23: `HostEffect.keeps_outside` and `HostEffect.accepts_or_keeps`. -/
theorem hostStepsKeepEngineRegisters : Obligations.HostStepsKeepEngineRegisters := by
  intro i s t h
  have he := effect_of_exec h
  obtain ⟨hcycles, hfree, hdone⟩ := he.keeps_outside
  refine ⟨⟨hdone, hcycles, hfree⟩, ?_⟩
  rcases he.accepts_or_keeps with ⟨hb, which, -⟩ | hkept
  · exact Or.inr ⟨(State.busy_false s).mp hb, which.symm⟩
  · exact Or.inl hkept

/-! ## What a cycle's host step changes: the port presents no command but through CMD -/

/-- The cycle presents this instruction on the port. -/
def State.Presents (s : State) (i : Instr) : Prop := ∃ c, s.now.presents = some c ∧ decode c = i

/-- A presented code is a transaction, never a bare command word. -/
theorem presents_bus {c : Cycle} {e : Code} (h : c.presents = some e) : e = .bus (tcOf c.we c.addr) c.wdata := by
  unfold Cycle.presents at h
  split_ifs at h
  exact (Option.some.inj h).symm

section
variable {s t u : State} {i : Instr}

/-- The port's instruction is none of the commands. -/
theorem State.Presents.ne_command (h : s.Presents i) : i ≠ .init ∧ i ≠ .compress ∧ ∀ cw, i ≠ .cmdRsvd cw := by
  obtain ⟨c, hc, rfl⟩ := h
  rw [presents_bus hc]
  exact decode_bus_ne_command _ _

/-- The host step of a cycle is nothing, or the effect of the instruction presented. -/
theorem CycleEffect.cases_presents (h : CycleEffect s u) :
    u = s.beginCycle ∨ ∃ i, s.Presents i ∧ HostEffect s.beginCycle i u := by
  rcases h with ⟨-, rfl⟩ | ⟨c, hc, he⟩
  · exact Or.inl rfl
  · exact Or.inr ⟨decode c, ⟨c, hc, rfl⟩, he⟩

theorem CycleEffect.starts_or_keeps (h : CycleEffect s u) :
    (s.busy = false ∧ s.Presents (.wrCmd 1#32)) ∨ (u.h = s.h ∧ u.blkcnt = s.blkcnt) := by
  rcases h.cases_presents with rfl | ⟨i, hi, he⟩
  · exact Or.inr ⟨rfl, rfl⟩
  · rcases he.starts_or_keeps with ⟨hb, rfl | rfl, -⟩ | hkept
    · exact Or.inl ⟨hb, hi⟩
    · exact absurd rfl hi.ne_command.1
    · exact Or.inr hkept

theorem CycleEffect.accepts_or_keeps (h : CycleEffect s u) :
    (s.busy = false ∧ s.Presents (.wrCmd 2#32)) ∨ u.phase = s.phase := by
  rcases h.cases_presents with rfl | ⟨i, hi, he⟩
  · exact Or.inr rfl
  · rcases he.accepts_or_keeps with ⟨hb, rfl | rfl, -⟩ | ⟨-, -, hp, -⟩
    · exact Or.inl ⟨hb, hi⟩
    · exact absurd rfl hi.ne_command.2.1
    · exact Or.inr hp

theorem CycleEffect.writesMsg_or_keeps (h : CycleEffect s u) :
    (s.busy = false ∧ ∃ k v, s.Presents (.wrMsg k v) ∧ u.msg = s.msg.set k v) ∨ u.msg = s.msg := by
  rcases h.cases_presents with rfl | ⟨i, hi, he⟩
  · exact Or.inr rfl
  · rcases he.writesMsg_or_keeps with ⟨hb, k, v, rfl, hm⟩ | hm
    · exact Or.inl ⟨hb, k, v, hi, hm⟩
    · exact Or.inr hm

theorem CycleEffect.errBusy_cases (h : CycleEffect s u) :
    (u.errBusy = true ∧ s.busy = true ∧
        ((∃ k v, s.Presents (.wrMsg k v)) ∨ s.Presents (.wrCmd 1#32) ∨ s.Presents (.wrCmd 2#32))) ∨
      (u.errBusy = false ∧ ∃ v, s.Presents (.wrStatus v) ∧ v.getLsbD 1 = true) ∨ u.errBusy = s.errBusy := by
  rcases h.cases_presents with rfl | ⟨i, hi, he⟩
  · exact Or.inr (Or.inr rfl)
  · rcases he.errBusy_cases with ⟨hu, hb, which⟩ | ⟨hu, v, rfl, hv⟩ | hu
    · refine Or.inl ⟨hu, hb, ?_⟩
      rcases which with ⟨k, v, rfl⟩ | rfl | rfl | rfl | rfl
      · exact Or.inl ⟨k, v, hi⟩
      · exact Or.inr (Or.inl hi)
      · exact Or.inr (Or.inr hi)
      · exact absurd rfl hi.ne_command.1
      · exact absurd rfl hi.ne_command.2.1
    · exact Or.inr (Or.inl ⟨hu, v, hi, hv⟩)
    · exact Or.inr (Or.inr hu)

theorem CycleEffect.errCmd_cases (h : CycleEffect s u) :
    (u.errCmd = true ∧ ∃ cw, s.Presents (.wrCmd cw) ∧ reservedCommand cw = true) ∨
      (u.errCmd = false ∧ ∃ v, s.Presents (.wrStatus v) ∧ v.getLsbD 2 = true) ∨ u.errCmd = s.errCmd := by
  rcases h.cases_presents with rfl | ⟨i, hi, he⟩
  · exact Or.inr (Or.inr rfl)
  · rcases he.errCmd_cases with ⟨hu, ⟨cw, rfl, hcw⟩ | ⟨cw, rfl⟩⟩ | ⟨hu, v, rfl, hv⟩ | hu
    · exact Or.inl ⟨hu, cw, hi, hcw⟩
    · exact absurd rfl (hi.ne_command.2.2 cw)
    · exact Or.inr (Or.inl ⟨hu, v, hi, hv⟩)
    · exact Or.inr (Or.inr hu)

/-! ## What a whole step changes -/

/-- In a cycle that begins idle, the engine takes no step: the host step is all (20_memory.md R60). -/
theorem step_idle (h : step s = .next t) (hr : s.now.rst = false) (hb : s.busy = false) : CycleEffect s t := by
  rcases step_cases h with ⟨hr', -⟩ | ⟨-, u, hu, rfl⟩
  · simp [hr] at hr'
  · rw [engineShare_idle hb]
    exact hu

/-- A step with a COMPRESS in flight: it stays in flight with H and BLKCNT held, or it has completed once. -/
theorem step_inFlight (h : step s = .next t) (hr : s.now.rst = false) (hb : s.busy = true) :
    (t.busy = true ∧ t.done = false ∧ t.h = s.h ∧ t.blkcnt = s.blkcnt) ∨
      (t.busy = false ∧ t.done = true ∧ t.blkcnt = s.blkcnt + 1) := by
  rcases step_cases h with ⟨hr', -⟩ | ⟨-, u, hu, rfl⟩
  · simp [hr] at hr'
  · obtain ⟨hh, -, -, -, hp, -, hk⟩ := hu.keeps_engine hb
    have hbusy : u.phase ≠ .idle := hp ▸ (State.busy_eq s).mp hb
    rcases engineRun_inFlight s.engineShare hbusy hu.keeps_outside.2.2 with ⟨hp', hh', hk', hd⟩ | ⟨hp', hd, hk', -⟩
    · exact Or.inl ⟨(State.busy_eq _).mpr hp', hd, hh'.trans hh, hk'.trans hk⟩
    · exact Or.inr ⟨(State.busy_false _).mpr hp', hd, hk'.trans (by rw [hk])⟩

/-- The engine writes neither MSG nor an error bit: a step's host step settles them. -/
theorem step_msg_errors (h : step s = .next t) (hr : s.now.rst = false) :
    ∃ u, CycleEffect s u ∧ t.msg = u.msg ∧ t.errBusy = u.errBusy ∧ t.errCmd = u.errCmd := by
  rcases step_cases h with ⟨hr', -⟩ | ⟨-, u, hu, rfl⟩
  · simp [hr] at hr'
  · obtain ⟨hmsg, hbusy, hcmd, -⟩ := engineRun_keeps s.engineShare u
    exact ⟨u, hu, hmsg, hbusy, hcmd⟩

/-- A step that begins idle is the instruction presented, and nothing more. -/
theorem step_idle_exec (h : step s = .next t) (hr : s.now.rst = false) (hb : s.busy = false) (hi : s.Presents i) :
    exec i s.beginCycle = .next t := by
  obtain ⟨c, hc, rfl⟩ := hi
  obtain ⟨u, hu, -⟩ := exec_effect (decode c) s.beginCycle
  rw [hu, ← h]
  simp [step, runCycle, hostStep, hr, hc, hu, engineShare_idle hb]

/-- INIT presented while BUSY = 0 is accepted (44_host_commands.md R175). -/
theorem step_startRun (h : step s = .next t) (hr : s.now.rst = false) (hb : s.busy = false)
    (hi : s.Presents (.wrCmd 1#32)) : t = s.beginCycle.startRun := by
  have hexec : exec (.wrCmd 1#32) s.beginCycle = .next s.beginCycle.startRun :=
    congrArg Host.Outcome.next (State.unlessBusy_of_idle hb)
  exact Host.Outcome.next.inj ((step_idle_exec h hr hb hi).symm.trans hexec)

/-- COMPRESS presented while BUSY = 0 is accepted (44_host_commands.md R176). -/
theorem step_acceptBlock (h : step s = .next t) (hr : s.now.rst = false) (hb : s.busy = false)
    (hi : s.Presents (.wrCmd 2#32)) : t = s.beginCycle.acceptBlock := by
  have hexec : exec (.wrCmd 2#32) s.beginCycle = .next s.beginCycle.acceptBlock :=
    congrArg Host.Outcome.next (State.unlessBusy_of_idle hb)
  exact Host.Outcome.next.inj ((step_idle_exec h hr hb hi).symm.trans hexec)

/-- A step that begins idle leaves the machine busy exactly if it presents a COMPRESS. -/
theorem step_idle_busy_iff (h : step s = .next t) (hr : s.now.rst = false) (hb : s.busy = false) :
    t.busy = true ↔ s.Presents (.wrCmd 2#32) := by
  constructor
  · intro ht
    rcases (step_idle h hr hb).accepts_or_keeps with ⟨-, hpres⟩ | hp
    · exact hpres
    · simp [State.busy_congr hp, hb] at ht
  · intro hpres
    rw [step_acceptBlock h hr hb hpres]
    rfl

end

/-! ## The obligations on single registers -/

/-- Settles O24: an idle step changes H by INIT only, and a busy one that is still busy holds it. -/
theorem hashStateChangesOnlyBy : Obligations.HashStateChangesOnlyBy := by
  intro s t h hne
  cases hr : s.now.rst with
  | true => exact Or.inl rfl
  | false =>
    right
    cases hb : s.busy with
    | false =>
      rcases (step_idle h hr hb).starts_or_keeps with ⟨-, hpres⟩ | ⟨hh, -⟩
      · exact Or.inl ⟨rfl, hpres⟩
      · exact absurd hh hne
    | true =>
      rcases step_inFlight h hr hb with ⟨-, -, hh, -⟩ | ⟨hb', hd, -⟩
      · exact absurd hh hne
      · exact Or.inr ⟨rfl, hb', hd⟩

/-- Settles O25: the reset edge clears both bits, and any other step's bits are those its host step leaves. -/
theorem errorBitsChangeOnlyBy : Obligations.ErrorBitsChangeOnlyBy := by
  intro s t h
  cases hr : s.now.rst with
  | true =>
    rw [step_reset hr] at h
    cases h
    simp
  | false =>
    obtain ⟨u, hu, -, heb, hec⟩ := step_msg_errors h hr
    rw [heb, hec]
    refine ⟨fun h0 h1 => ?_, fun h0 h1 => ?_, fun h0 h1 => ?_, fun h0 h1 => ?_⟩
    · rcases hu.errBusy_cases with ⟨-, hb, which⟩ | ⟨hf, -⟩ | hk
      · refine ⟨rfl, hb, ?_⟩
        rcases which with ⟨k, v, c, hc, hd⟩ | ⟨c, hc, hd⟩ | ⟨c, hc, hd⟩
        · exact ⟨c, hc, Or.inl ⟨k, v, hd⟩⟩
        · exact ⟨c, hc, Or.inr (Or.inl hd)⟩
        · exact ⟨c, hc, Or.inr (Or.inr hd)⟩
      · simp [hf] at h1
      · simp [hk, h0] at h1
    · rcases hu.errCmd_cases with ⟨-, cw, ⟨c, hc, hd⟩, hcw⟩ | ⟨hf, -⟩ | hk
      · exact ⟨rfl, c, cw, hc, hd, by simpa [reservedCommand, and_assoc] using hcw⟩
      · simp [hf] at h1
      · simp [hk, h0] at h1
    · rcases hu.errBusy_cases with ⟨hs, -⟩ | ⟨-, v, ⟨c, hc, hd⟩, hv⟩ | hk
      · simp [hs] at h1
      · exact Or.inr ⟨c, v, hc, hd, hv⟩
      · simp [hk, h0] at h1
    · rcases hu.errCmd_cases with ⟨hs, -⟩ | ⟨-, v, ⟨c, hc, hd⟩, hv⟩ | hk
      · simp [hs] at h1
      · exact Or.inr ⟨c, v, hc, hd, hv⟩
      · simp [hk, h0] at h1

/-- Settles O26: `step_idle_busy_iff` for the rise, `step_inFlight` for the fall. -/
theorem busyChangesOnlyBy : Obligations.BusyChangesOnlyBy := by
  intro s t h
  cases hr : s.now.rst with
  | true =>
    rw [step_reset hr] at h
    cases h
    simp [State.busy]
  | false =>
    refine ⟨⟨fun ⟨h0, h1⟩ => ⟨rfl, h0, (step_idle_busy_iff h hr h0).mp h1⟩,
      fun ⟨_, h0, hpres⟩ => ⟨h0, (step_idle_busy_iff h hr h0).mpr hpres⟩⟩, fun h1 h0 => ?_⟩
    rcases step_inFlight h hr h1 with ⟨hb, -⟩ | ⟨-, hd, -⟩
    · simp [h0] at hb
    · exact Or.inr hd

/-- Settles O28: the counter goes by the idle step's INIT and by the completion of the busy one. -/
theorem blockCounterCounts : Obligations.BlockCounterCounts := by
  refine ⟨fun s t h => ⟨fun hr => ?_, fun hr hb hpres => ?_, fun hr hb hb' => ?_, fun hr hbusy hnot => ?_⟩,
    fun s v => ⟨exec_read s 0x03#6 v, exec_write_ignored s (a := 0x03#6) v (by decide)⟩⟩
  · rw [step_reset hr] at h
    cases h
    rfl
  · rw [step_startRun h hr hb hpres]
    rfl
  · rcases step_inFlight h hr hb with ⟨hb1, -⟩ | ⟨-, -, hk⟩
    · simp [hb'] at hb1
    · exact hk
  · cases hb : s.busy with
    | false =>
      rcases (step_idle h hr hb).starts_or_keeps with hpres | ⟨-, hk⟩
      · exact absurd (hb ▸ hpres) hnot
      · exact hk
    | true =>
      rcases step_inFlight h hr hb with ⟨-, -, -, hk⟩ | ⟨hb0, -⟩
      · exact hk
      · simp [hbusy hb] at hb0

/-- Settles O29: the engine never writes MSG, and the host step does so by an accepted WR_MSG only. -/
theorem messageBufferChangesOnlyBy : Obligations.MessageBufferChangesOnlyBy := by
  intro s t h hne
  cases hr : s.now.rst with
  | true => exact Or.inl rfl
  | false =>
    obtain ⟨u, hu, hmsg, -⟩ := step_msg_errors h hr
    rcases hu.writesMsg_or_keeps with ⟨hb, k, v, ⟨c, hc, hd⟩, hm⟩ | hm
    · exact Or.inr ⟨hb, c, k, v, hc, hd, hmsg.trans hm⟩
    · exact absurd (hmsg.trans hm) hne

/-! ## The reset state -/

/-- Settles O9: each row of R37 is a field of `State.reset`, or a constant. -/
theorem resetStateValues : Obligations.ResetStateValues := by
  have hmsg : ∀ i : Fin 16, State.reset.msg[i] = 0#32 := by decide
  exact ⟨rfl, rfl, rfl, rfl, rfl, hmsg, rfl, rfl, rfl, rfl, rfl, rfl, rfl, rfl, rfl, rfl, rfl, rfl⟩

/-- Settles O44: PHASE is IDLE at reset, so the invariant asks for T = 0 only. -/
theorem engineOnCourseAtReset : Obligations.EngineOnCourseAtReset := by
  have ht : State.reset.t = 0 := rfl
  exact ht

end Sys2Proof.Machine

/-! SUPPORT. PROOFS of the family 20_memory.md: the frame of the register map, the order of host step and engine steps in a
cycle, and the big-endian block words. -/

namespace Sys2Proof.Machine

/-! ## A cycle that presents a transaction (20_memory.md R60) -/

section
variable {s t u : State} {c : Cycle} {rest : List Cycle} {i : Instr}

theorem now_of_cycles (hc : s.cycles = c :: rest) : s.now = c := by simp [State.now, hc]

theorem presents_of_cycles (hc : s.cycles = c :: rest) (hr : c.rst = false) (hsel : c.sel = true)
    (hd : decode (.bus (tcOf c.we c.addr) c.wdata) = i) : s.Presents i :=
  ⟨_, by simp [now_of_cycles hc, Cycle.presents, hr, hsel, Cycle.code], hd⟩

/-- The engine's share of a cycle is the schedule's number if a COMPRESS is in flight before the edge, and else none. -/
theorem engineShare_eq (s : State) : s.engineShare = if s.busy then s.now.engine else 0 := by
  cases hp : s.phase <;> simp [State.engineShare, State.busy, hp]

/-- A cycle that presents an instruction runs it at the cycle's start, and then the engine's steps. -/
theorem step_presented (hr : s.now.rst = false) (hi : s.Presents i) (hu : exec i s.beginCycle = .next u) :
    step s = .next (State.engineRun s.engineShare u) := by
  obtain ⟨e, he, rfl⟩ := hi
  simp [step, runCycle, hostStep, hr, he, hu]

/-- WR_MSG presented while BUSY = 1 is rejected at its edge, whatever the engine does at the same edge (R181, R241). -/
theorem step_wrMsg_rejected {k : Fin 16} {v : Word} (h : step s = .next t) (hr : s.now.rst = false)
    (hb : s.busy = true) (hi : s.Presents (.wrMsg k v)) : t.errBusy = true ∧ t.msg = s.msg := by
  have hexec : exec (.wrMsg k v) s.beginCycle = .next (s.beginCycle.raise .errBusy) :=
    congrArg Host.Outcome.next (State.unlessBusy_of_busy hb)
  have ht := Host.Outcome.next.inj (h.symm.trans (step_presented hr hi hexec))
  obtain ⟨hmsg, herr, -⟩ := engineRun_keeps s.engineShare (s.beginCycle.raise .errBusy)
  exact ⟨by rw [ht, herr]; rfl, by rw [ht, hmsg]; rfl⟩

/-- WR_MSG presented while BUSY = 0 is accepted, and the engine takes no step (R181). -/
theorem step_wrMsg_accepted {k : Fin 16} {v : Word} (h : step s = .next t) (hr : s.now.rst = false)
    (hb : s.busy = false) (hi : s.Presents (.wrMsg k v)) : t = s.beginCycle.writeMsg k v := by
  have hexec : exec (.wrMsg k v) s.beginCycle = .next (s.beginCycle.writeMsg k v) :=
    congrArg Host.Outcome.next (State.unlessBusy_of_idle hb)
  exact Host.Outcome.next.inj ((step_idle_exec h hr hb hi).symm.trans hexec)

/-- A step that presents nothing keeps MSG and the error bits: the engine writes none of them. -/
theorem step_silent_keeps (h : step s = .next t) (hr : s.now.rst = false) (hn : s.now.presents = none) :
    t.msg = s.msg ∧ t.errBusy = s.errBusy ∧ t.errCmd = s.errCmd := by
  obtain ⟨u, ⟨-, rfl⟩ | ⟨e, he, -⟩, hkept⟩ := step_msg_errors h hr
  · exact hkept
  · simp [hn] at he

/-- With accumulation due, any positive number of engine steps is the one FINISH step. -/
theorem engineRun_finish {n : Nat} (hn : 1 ≤ n) (hp : s.phase = .finish) :
    State.engineRun n s = s.engineFinish := by
  obtain ⟨m, rfl⟩ := Nat.exists_eq_add_of_le' hn
  rw [engineRun_succ, engineStep_finish hp, engineRun_idle m rfl]

/-- A cycle that gives the engine a step in FINISH completes the COMPRESS, whatever the host presents in it. -/
theorem step_completes (h : step s = .next t) (hr : s.now.rst = false) (hp : s.phase = .finish)
    (he : 1 ≤ s.now.engine) : t.busy = false := by
  have hb : s.busy = true := (State.busy_eq s).mpr (by simp [hp])
  rcases step_cases h with ⟨hr', -⟩ | ⟨-, u, hu, rfl⟩
  · simp [hr] at hr'
  · obtain ⟨-, -, -, -, hphase, -⟩ := hu.keeps_engine hb
    rw [engineRun_finish (by simpa [engineShare_eq, hb] using he) (hphase.trans hp)]
    rfl

end

/-- Settles O6: the state the statement writes out is `beginCycle`, and its number of engine steps is `engineShare`. -/
theorem stepRunsPresentedInstruction : Obligations.StepRunsPresentedInstruction := by
  intro s t c rest hc hr hsel hexec
  have hnow := now_of_cycles hc
  have hbegin : s.beginCycle = { s with
      cycles := rest, rdata := Config.freeRdata s.freeNext, freeNext := s.freeNext + 1, done := false } := by
    simp [State.beginCycle, hc]
  rw [← hbegin] at hexec
  rw [step_presented (hnow ▸ hr) (presents_of_cycles hc hr hsel rfl) hexec, engineShare_eq, hnow]

/-- Settles O49: BUSY is still 1 at the host step of the completing cycle, and 0 at that of the next one. -/
theorem hostStepFirstInACycle : Obligations.HostStepFirstInACycle := by
  intro s t c rest i v hp hc hr he h
  have hnow := now_of_cycles hc
  have hr' : s.now.rst = false := hnow ▸ hr
  have hidle : t.busy = false := step_completes h hr' hp (hnow ▸ he)
  refine ⟨hidle, fun hsel hd => ?_, fun hsel d rest' u hrest hdr hdsel hdd hu => ?_⟩
  · exact step_wrMsg_rejected h hr' ((State.busy_eq s).mpr (by simp [hp])) (presents_of_cycles hc hr hsel hd)
  · have htc : t.cycles = d :: rest' := by rw [step_cycles h, hc, hrest]; rfl
    obtain ⟨hmsg, herr, -⟩ := step_silent_keeps h hr' (by simp [hnow, Cycle.presents, hsel])
    rw [step_wrMsg_accepted hu ((now_of_cycles htc) ▸ hdr) hidle (presents_of_cycles htc hdr hdsel hdd)]
    exact ⟨by simp [hmsg], herr⟩

/-! ## The frame of the register map -/

section
variable {s t : State} {a : BitVec 6} {i : Instr}

theorem regMap_id (s : State) : s.regMap 0x00#6 = idValue := rfl

/-- An address that reads differently in two states is that of a register in which they differ. -/
theorem regMap_ne (h : t.regMap a ≠ s.regMap a) :
    (a = 0x02#6 ∧ t.statusWord ≠ s.statusWord) ∨ (a = 0x03#6 ∧ t.blkcnt ≠ s.blkcnt) ∨
      (∃ k : Fin 16, a.toNat = 0x10 + k.val ∧ t.msg[k] ≠ s.msg[k]) ∨
      (((0x20 ≤ a.toNat ∧ a.toNat ≤ 0x24) ∨ (0x30 ≤ a.toNat ∧ a.toNat ≤ 0x39)) ∧ t.h ≠ s.h) := by
  rcases addr_regions a with rfl | rfl | rfl | rfl | ha | ⟨k, ha⟩ | ⟨j, ha⟩ | ⟨j, ha⟩
  · exact absurd ((regMap_id t).trans (regMap_id s).symm) h
  · exact absurd ((regMap_zero t (by decide)).trans (regMap_zero s (by decide)).symm) h
  · exact Or.inl ⟨rfl, h⟩
  · exact Or.inr (Or.inl ⟨rfl, h⟩)
  · have hzero (r : State) : r.regMap a = 0#32 := regMap_zero r (by have := (reservedAddr_iff a).mp ha; omega)
    simp [hzero] at h
  · rw [regMap_msg t ha, regMap_msg s ha] at h
    exact Or.inr (Or.inr (Or.inl ⟨k, ha, h⟩))
  · by_cases hj : j.val ≤ 4
    · rw [regMap_hOperand t ha, regMap_hOperand s ha] at h
      exact Or.inr (Or.inr (Or.inr ⟨by omega, fun hh => h (by simp [hOperand, hh])⟩))
    · simp [regMap_hOperand _ ha, hOperand, hj] at h
  · by_cases hj : j.val ≤ 9
    · rw [regMap_hexOperand t ha, regMap_hexOperand s ha] at h
      exact Or.inr (Or.inr (Or.inr ⟨by omega, fun hh => h (by simp [hexOperand, hh])⟩))
    · simp [regMap_hexOperand _ ha, hexOperand, hj] at h

/-- STATUS is a view of PHASE and the two error bits. -/
theorem statusWord_congr (hp : t.phase = s.phase) (hb : t.errBusy = s.errBusy) (hc : t.errCmd = s.errCmd) :
    t.statusWord = s.statusWord := by
  simp [State.statusWord, State.busy_congr hp, hb, hc]

/-- STATUS: a STATUS write, a command or a MSG write may change it, and no other instruction does. -/
theorem HostEffect.statusWord_cases (he : HostEffect s i t) :
    ((∃ v, i = .wrStatus v) ∨ (∃ v, i = .wrCmd v) ∨ (∃ k v, i = .wrMsg k v) ∨ i = .init ∨ i = .compress ∨
      ∃ v, i = .cmdRsvd v) ∨ t.statusWord = s.statusWord := by
  cases he with
  | cleared v => exact Or.inl (Or.inl ⟨v, rfl⟩)
  | rejectedBusy which busy =>
    left
    rcases which with ⟨k, v, rfl⟩ | rfl | rfl | rfl | rfl <;> simp
  | rejectedCmd which =>
    left
    rcases which with ⟨cw, rfl, -⟩ | ⟨cw, rfl⟩ <;> simp
  | accepted which idle =>
    left
    rcases which with rfl | rfl <;> simp
  | _ => exact Or.inr (statusWord_congr rfl rfl rfl)

/-- A MSG word: only the WR_MSG with its own index changes it. -/
theorem HostEffect.wrMsg_of_msg_ne {k : Fin 16} (he : HostEffect s i t) (hne : t.msg[k] ≠ s.msg[k]) :
    ∃ v, i = .wrMsg k v := by
  rcases he.writesMsg_or_keeps with ⟨-, l, v, rfl, hm⟩ | hm
  · by_cases hkl : l = k
    · exact ⟨v, hkl ▸ rfl⟩
    · have hval : l.val ≠ k.val := fun hv => hkl (Fin.ext hv)
      exact absurd (by simp [hm, Vector.getElem_set_ne, hval]) hne
  · exact absurd (by rw [hm]) hne

end

/-- Settles O22: an address reads differently only where a register differs, and each register's writers are known. -/
theorem registerMapFrame : Obligations.RegisterMapFrame := by
  intro i s t h a hne
  have he := effect_of_exec h
  rcases regMap_ne hne with ⟨ha, hst⟩ | ⟨ha, hk⟩ | ⟨k, ha, hm⟩ | ⟨ha, hh⟩
  · exact Or.inl ⟨ha, he.statusWord_cases.resolve_right hst⟩
  · rcases he.starts_or_keeps with ⟨-, which, -⟩ | ⟨-, hk'⟩
    · exact Or.inr (Or.inr ⟨which.symm, Or.inl ha⟩)
    · exact absurd hk' hk
  · obtain ⟨v, hi⟩ := he.wrMsg_of_msg_ne hm
    exact Or.inr (Or.inl ⟨k, v, hi, ha⟩)
  · rcases he.starts_or_keeps with ⟨-, which, -⟩ | ⟨hh', -⟩
    · exact Or.inr (Or.inr ⟨which.symm, Or.inr ha⟩)
    · exact absurd hh' hh

/-! ## Block words (20_memory.md R50, R51, 40_message_formatting.md R110) -/

/-- A big-endian word is its bytes' value in base 256. -/
theorem wordBe_toNat (b0 b1 b2 b3 : Byte) :
    (wordBe b0 b1 b2 b3).toNat = ((b0.toNat * 256 + b1.toNat) * 256 + b2.toNat) * 256 + b3.toNat := by
  have happend {w : Nat} (x : BitVec w) (y : Byte) : (x ++ y).toNat = x.toNat * 256 + y.toNat := by
    rw [BitVec.toNat_append, ← Nat.shiftLeft_add_eq_or_of_lt y.isLt, Nat.shiftLeft_eq]
  simp only [wordBe, happend]

/-- Byte 0 of a word is its most significant one. -/
theorem wordBe_bytes (b0 b1 b2 b3 : Byte) :
    (wordBe b0 b1 b2 b3).extractLsb' 24 8 = b0 ∧ (wordBe b0 b1 b2 b3).extractLsb' 16 8 = b1 ∧
      (wordBe b0 b1 b2 b3).extractLsb' 8 8 = b2 ∧ (wordBe b0 b1 b2 b3).extractLsb' 0 8 = b3 := by
  have hb (k : Nat) (b : Byte) : (wordBe b0 b1 b2 b3).extractLsb' k 8 = b ↔
      (((b0.toNat * 256 + b1.toNat) * 256 + b2.toNat) * 256 + b3.toNat) / 2 ^ k % 2 ^ 8 = b.toNat := by
    rw [← BitVec.toNat_inj, BitVec.extractLsb'_toNat, wordBe_toNat, Nat.shiftRight_eq_div_pow]
  simp only [hb]
  omega

/-- The four low bytes of a number, most significant first, make its low word. -/
theorem wordBe_ofNat (n : Nat) :
    wordBe (BitVec.ofNat 8 (n / 256 ^ 3)) (BitVec.ofNat 8 (n / 256 ^ 2)) (BitVec.ofNat 8 (n / 256))
      (BitVec.ofNat 8 n) = BitVec.ofNat 32 n := by
  apply BitVec.eq_of_toNat_eq
  simp only [wordBe_toNat, BitVec.toNat_ofNat]
  omega

theorem blockWords_getElem (b : List Byte) (i : Fin 16) :
    (blockWords b)[i] = wordBe (b.getD (4 * i.val) 0) (b.getD (4 * i.val + 1) 0) (b.getD (4 * i.val + 2) 0)
      (b.getD (4 * i.val + 3) 0) := by
  simp [blockWords]

/-- The padding fills up whole blocks (40_message_formatting.md R104). -/
theorem pad_length_mod (m : List Byte) : (pad m).length % 64 = 0 := by
  rw [pad_length, padZeros]
  omega

/-- The last chunk of a byte string made of whole blocks is its last 64 bytes. -/
theorem splitBlocks_getLast {p : List Byte} (hmod : p.length % 64 = 0) (hpos : 0 < p.length) :
    (splitBlocks p).getLast? = some (p.drop (p.length - 64)) := by
  obtain ⟨n, hn⟩ : ∃ n, p.length / 64 = n + 1 := ⟨p.length / 64 - 1, by omega⟩
  have hdrop : 64 * n = p.length - 64 := by omega
  simp only [splitBlocks, hn, List.range_succ, List.map_append, List.map_singleton, List.getLast?_concat, hdrop]
  rw [List.take_of_length_le (by simp; omega)]

/-- The last block ends with the length field, from its byte 56 on (40_message_formatting.md R106). -/
theorem lastBlock_lengthField (m : List Byte) :
    ∃ front : List Byte, front.length = 56 ∧ (splitBlocks (pad m)).getLast? = some (front ++ lengthField m.length) := by
  have hmod := pad_length_mod m
  have hlen := pad_length m
  rw [splitBlocks_getLast hmod (by omega), hlen]
  refine ⟨(m ++ [0x80#8] ++ List.replicate (padZeros m.length) 0x00#8).drop (m.length + 9 + padZeros m.length - 64), ?_, ?_⟩
  · simp
    omega
  · rw [pad, List.drop_append_of_le_length (by simp; omega)]

/-- In a block that ends with `bytes_be(v, 8)`, words 14 and 15 are the halves of v. -/
theorem blockWords_tail {front : List Byte} (hf : front.length = 56) (v : Nat) :
    (blockWords (front ++ bytesBe v 8))[14] = BitVec.ofNat 32 (v / 2 ^ 32) ∧
      (blockWords (front ++ bytesBe v 8))[15] = BitVec.ofNat 32 v := by
  rw [← wordBe_ofNat (v / 2 ^ 32), ← wordBe_ofNat v]
  constructor
  · simp [blockWords, bytesBe, hf, Nat.div_div_eq_div_mul]
  · simp [blockWords, bytesBe, hf]

/-- The messages the formatter accepts are those up to MAX_MESSAGE_BYTES, with their padded chunks as block words. -/
theorem formatMessage_ok {m : List Byte} {ws : List (Vector Word 16)} (h : formatMessage m = .ok ws) :
    m.length ≤ Config.maxMessageBytes ∧ ws = (splitBlocks (pad m)).map blockWords := by
  unfold formatMessage at h
  split_ifs at h with hle
  exact ⟨hle, (Except.ok.inj h).symm⟩

/-- Settles O56: the bytes of `wordBe`, and the length field at the end of the last block. -/
theorem blockWordsBigEndian : Obligations.BlockWordsBigEndian := by
  refine ⟨fun b hb i q => ?_, fun m ws h => ?_⟩
  · have hget : b[4 * i.val + q.val]? = some (b.getD (4 * i.val + q.val) 0) := by
      rw [List.getD_eq_getElem _ _ (by omega), List.getElem?_eq_getElem]
    obtain ⟨h0, h1, h2, h3⟩ := wordBe_bytes (b.getD (4 * i.val) 0) (b.getD (4 * i.val + 1) 0)
      (b.getD (4 * i.val + 2) 0) (b.getD (4 * i.val + 3) 0)
    rw [hget, blockWords_getElem]
    fin_cases q
    · exact congrArg some h0.symm
    · exact congrArg some h1.symm
    · exact congrArg some h2.symm
    · exact congrArg some h3.symm
  · obtain ⟨hle, rfl⟩ := formatMessage_ok h
    obtain ⟨front, hf, hlast⟩ := lastBlock_lengthField m
    refine ⟨_, by rw [List.getLast?_map, hlast]; rfl, ?_⟩
    rw [lengthField, bitLength_of_le hle]
    exact blockWords_tail hf _

end Sys2Proof.Machine

/-! SUPPORT. PROOFS of the family 30_encoding.md: the two decoders and the encoder against each other, that no step stops, and
the host's pseudo-instructions LOADBLK and HASHBLK under every interleaving with the engine. -/

namespace Sys2Proof

/-! ## The encoder's codes, by word address (30_encoding.md R71, R72) -/

/-- The encoder's patterns of the MSG rows are `we ‖ addr`. -/
theorem msgPattern_eq : ∀ (a : BitVec 6) (i : Fin 16), a.toNat = 0x10 + i.val →
    0b001#3 ++ BitVec.ofNat 4 i.val = tcOf false a ∧ 0b101#3 ++ BitVec.ofNat 4 i.val = tcOf true a := by
  decide +kernel

theorem hPattern_eq : ∀ (a : BitVec 6) (j : Fin 8), a.toNat = 0x20 + j.val →
    0b0100#4 ++ BitVec.ofNat 3 j.val = tcOf false a ∧ 0b1100#4 ++ BitVec.ofNat 3 j.val = tcOf true a := by
  decide +kernel

theorem hexPattern_eq : ∀ (a : BitVec 6) (j : Fin 16), a.toNat = 0x30 + j.val →
    0b011#3 ++ BitVec.ofNat 4 j.val = tcOf false a ∧ 0b111#3 ++ BitVec.ofNat 4 j.val = tcOf true a := by
  decide +kernel

theorem encode_msgAddr {a : BitVec 6} {i : Fin 16} (ha : a.toNat = 0x10 + i.val) (v : Word) :
    encode (.rdMsg i) = .bus (tcOf false a) 0 ∧ encode (.wrMsg i v) = .bus (tcOf true a) v :=
  ⟨congrArg (Code.bus · 0) (msgPattern_eq a i ha).1, congrArg (Code.bus · v) (msgPattern_eq a i ha).2⟩

theorem encode_hAddr {a : BitVec 6} {j : Fin 8} (ha : a.toNat = 0x20 + j.val) (v : Word) :
    encode (.rdH j) = .bus (tcOf false a) 0 ∧ encode (.wrH j v) = .bus (tcOf true a) v :=
  ⟨congrArg (Code.bus · 0) (hPattern_eq a j ha).1, congrArg (Code.bus · v) (hPattern_eq a j ha).2⟩

theorem encode_hexAddr {a : BitVec 6} {j : Fin 16} (ha : a.toNat = 0x30 + j.val) (v : Word) :
    encode (.rdHex j) = .bus (tcOf false a) 0 ∧ encode (.wrHex j v) = .bus (tcOf true a) v :=
  ⟨congrArg (Code.bus · 0) (hexPattern_eq a j ha).1, congrArg (Code.bus · v) (hexPattern_eq a j ha).2⟩

/-- The word address at an index of a window, as a number. -/
theorem msgAddr_toNat (i : Fin 16) : (BitVec.ofNat 6 (0x10 + i.val)).toNat = 0x10 + i.val :=
  Nat.mod_eq_of_lt (by omega)

theorem hAddr_toNat (j : Fin 8) : (BitVec.ofNat 6 (0x20 + j.val)).toNat = 0x20 + j.val :=
  Nat.mod_eq_of_lt (by omega)

theorem hexAddr_toNat (j : Fin 16) : (BitVec.ofNat 6 (0x30 + j.val)).toNat = 0x30 + j.val :=
  Nat.mod_eq_of_lt (by omega)

/-! ## The command words (30_encoding.md R76) -/

theorem reservedCommand_iff (cw : Word) : reservedCommand cw = true ↔ cw ≠ 0#32 ∧ cw ≠ 1#32 ∧ cw ≠ 2#32 := by
  simp [reservedCommand, and_assoc]

/-- The fall-back row takes exactly the reserved words. -/
theorem decode_cmd_reserved_iff (cw : Word) : decode (.cmd cw) = .cmdRsvd cw ↔ reservedCommand cw = true := by
  rw [reservedCommand_iff, decode, cmdRow_eq]
  split_ifs with h0 h1 h2
  · simp [CmdRow.instr, h0]
  · simp [CmdRow.instr, h1]
  · simp [CmdRow.instr, h2]
  · simp [CmdRow.instr, h0, h1, h2]

/-- The reserved words by their fields: OP is 3..15, or RSVD is not 0 (30_encoding.md R75). -/
theorem reservedCommand_iff_fields (cw : Word) :
    reservedCommand cw = true ↔ 3#4 ≤ cwOp cw ∨ cwRsvd cw ≠ 0#28 := by
  have hop : (cwOp cw).toNat = cw.toNat % 16 := by simp [cwOp]
  have hrsvd : (cwRsvd cw).toNat = cw.toNat / 16 := by
    simp only [cwRsvd, BitVec.extractLsb'_toNat, Nat.shiftRight_eq_div_pow]
    omega
  simp only [reservedCommand, Bool.and_eq_true, bne_iff_ne, ne_eq, BitVec.le_def, ← BitVec.toNat_inj, hop, hrsvd,
    BitVec.toNat_ofNat]
  omega

/-! ## The obligations on the decoders and the encoder -/

/-- Settles O3: the encoder's pattern is the address that the decoder's table takes to the same row. -/
theorem decodeOfEncode : Obligations.DecodeOfEncode := by
  intro i hwf
  cases i with
  | rdId => rfl
  | wrId v => rfl
  | rdCmd => rfl
  | wrCmd cw => rfl
  | rdStatus => rfl
  | wrStatus v => rfl
  | rdBlkcnt => rfl
  | wrBlkcnt v => rfl
  | rdMsg i => rw [(encode_msgAddr (msgAddr_toNat i) 0).1, (decode_msgAddr (msgAddr_toNat i) 0).1]
  | wrMsg i v => rw [(encode_msgAddr (msgAddr_toNat i) v).2, (decode_msgAddr (msgAddr_toNat i) v).2]
  | rdH j => rw [(encode_hAddr (hAddr_toNat j) 0).1, (decode_hAddr (hAddr_toNat j) 0).1]
  | wrH j v => rw [(encode_hAddr (hAddr_toNat j) v).2, (decode_hAddr (hAddr_toNat j) v).2]
  | rdHex j => rw [(encode_hexAddr (hexAddr_toNat j) 0).1, (decode_hexAddr (hexAddr_toNat j) 0).1]
  | wrHex j v => rw [(encode_hexAddr (hexAddr_toNat j) v).2, (decode_hexAddr (hexAddr_toNat j) v).2]
  | rdRsvd a => exact (decode_reservedAddr hwf 0).1
  | wrRsvd a v => exact (decode_reservedAddr hwf v).2
  | nop => rfl
  | init => rfl
  | compress => rfl
  | cmdRsvd cw => exact (decode_cmd_reserved_iff cw).mpr hwf

/-- The statement's window codes, base plus index, as `we ‖ addr`. -/
theorem windowCodes_eq :
    (∀ i : Fin 16, 0x10#7 + BitVec.ofNat 7 i.val = tcOf false (BitVec.ofNat 6 (0x10 + i.val)) ∧
      0x50#7 + BitVec.ofNat 7 i.val = tcOf true (BitVec.ofNat 6 (0x10 + i.val))) ∧
    (∀ j : Fin 8, 0x20#7 + BitVec.ofNat 7 j.val = tcOf false (BitVec.ofNat 6 (0x20 + j.val)) ∧
      0x60#7 + BitVec.ofNat 7 j.val = tcOf true (BitVec.ofNat 6 (0x20 + j.val))) ∧
    ∀ j : Fin 16, 0x30#7 + BitVec.ofNat 7 j.val = tcOf false (BitVec.ofNat 6 (0x30 + j.val)) ∧
      0x70#7 + BitVec.ofNat 7 j.val = tcOf true (BitVec.ofNat 6 (0x30 + j.val)) := by decide

/-- Settles O1: rows 1 to 8 by evaluation, the windows and the fall-back rows by their address. -/
theorem busDecodeRows : Obligations.BusDecodeRows := by
  intro v
  obtain ⟨hmsg, hh, hhex⟩ := windowCodes_eq
  refine ⟨⟨rfl, rfl⟩, ⟨rfl, rfl⟩, ⟨rfl, rfl⟩, ⟨rfl, rfl⟩, fun i => ?_, fun j => ?_, fun j => ?_, fun a ha => ?_⟩
  · rw [(hmsg i).1, (hmsg i).2]
    exact decode_msgAddr (msgAddr_toNat i) v
  · rw [(hh j).1, (hh j).2]
    exact decode_hAddr (hAddr_toNat j) v
  · rw [(hhex j).1, (hhex j).2]
    exact decode_hexAddr (hexAddr_toNat j) v
  · exact decode_reservedAddr ((reservedAddr_iff a).mpr ha) v

/-- Settles O2: the fall-back row takes the words other than 0, 1 and 2, which the fields OP and RSVD tell. -/
theorem cmdDecodeRows : Obligations.CmdDecodeRows :=
  ⟨rfl, rfl, rfl, fun cw => (decode_cmd_reserved_iff cw).trans (reservedCommand_iff_fields cw)⟩

/-- A transaction decodes to a well-formed instruction, whose code is the transaction's without a read's data: region by
region of the register map, for either WE. -/
theorem decode_tcOf_encode (we : Bool) (a : BitVec 6) (v : Word) :
    WellFormed (decode (.bus (tcOf we a) v)) ∧
      encode (decode (.bus (tcOf we a) v)) = .bus (tcOf we a) (if we then v else 0#32) := by
  rcases addr_regions a with rfl | rfl | rfl | rfl | ha | ⟨i, ha⟩ | ⟨j, ha⟩ | ⟨j, ha⟩
  · cases we <;> exact ⟨rfl, rfl⟩
  · cases we <;> exact ⟨rfl, rfl⟩
  · cases we <;> exact ⟨rfl, rfl⟩
  · cases we <;> exact ⟨rfl, rfl⟩
  · obtain ⟨hr, hw⟩ := decode_reservedAddr ha v
    cases we
    · rw [hr]
      exact ⟨ha, rfl⟩
    · rw [hw]
      exact ⟨ha, rfl⟩
  · obtain ⟨hr, hw⟩ := decode_msgAddr ha v
    cases we
    · rw [hr]
      exact ⟨rfl, (encode_msgAddr ha v).1⟩
    · rw [hw]
      exact ⟨rfl, (encode_msgAddr ha v).2⟩
  · obtain ⟨hr, hw⟩ := decode_hAddr ha v
    cases we
    · rw [hr]
      exact ⟨rfl, (encode_hAddr ha v).1⟩
    · rw [hw]
      exact ⟨rfl, (encode_hAddr ha v).2⟩
  · obtain ⟨hr, hw⟩ := decode_hexAddr ha v
    cases we
    · rw [hr]
      exact ⟨rfl, (encode_hexAddr ha v).1⟩
    · rw [hw]
      exact ⟨rfl, (encode_hexAddr ha v).2⟩

/-- A command word decodes to a well-formed instruction, whose code is the word. -/
theorem decode_cmd_encode (cw : Word) :
    WellFormed (decode (.cmd cw)) ∧ encode (decode (.cmd cw)) = .cmd cw := by
  by_cases hr : reservedCommand cw = true
  · rw [(decode_cmd_reserved_iff cw).mpr hr]
    exact ⟨hr, rfl⟩
  · obtain rfl | rfl | rfl : cw = 0#32 ∨ cw = 1#32 ∨ cw = 2#32 := by
      rw [reservedCommand_iff] at hr
      tauto
    · exact ⟨rfl, rfl⟩
    · exact ⟨rfl, rfl⟩
    · exact ⟨rfl, rfl⟩

/-- Settles O4: a TC is `we ‖ addr`, and either format's decoding keeps the code. -/
theorem encodeOfDecode : Obligations.EncodeOfDecode := by
  refine ⟨fun c => ?_, fun cw => (decode_cmd_encode cw).2, fun tc v => ?_⟩
  · cases c with
    | bus tc v => exact tcOf_fields tc ▸ (decode_tcOf_encode (tcWe tc) (tcAddr tc) v).1
    | cmd cw => exact (decode_cmd_encode cw).1
  · have h := (decode_tcOf_encode (tcWe tc) (tcAddr tc) v).2
    rwa [tcOf_fields] at h

namespace Machine

/-- Settles O20: a cycle is a reset edge, or a host step and the engine's steps, and both answer a state. -/
theorem noStepStops : Obligations.NoStepStops := by
  intro s
  cases hr : s.now.rst with
  | true => exact ⟨_, step_reset hr⟩
  | false =>
    obtain ⟨u, -, hs⟩ := step_ordinary hr
    exact ⟨_, hs⟩

/-- Settles O14: WR_STATUS is `clearErrors`, whose bits `clearErrors_eq` writes as a choice. -/
theorem statusWriteClearsOnes : Obligations.StatusWriteClearsOnes :=
  fun s v => congrArg Host.Outcome.next (clearErrors_eq s v)

end Machine
end Sys2Proof

namespace Sys2Proof.Machine

/-! ## The schedule words and the window (41_message_schedule.md R120 to R123) -/

section
variable (w : Vector Word 16)

@[simp] theorem scheduleUpTo_length (n : Nat) : (scheduleUpTo w n).length = 16 + n := by
  induction n with
  | zero => simp [scheduleUpTo]
  | succ n ih => simp [scheduleUpTo, ih, Nat.add_assoc]

/-- A word of the schedule stays as it is when further words are derived. -/
theorem scheduleUpTo_getD {m n i : Nat} (hmn : m ≤ n) (hi : i < 16 + m) :
    (scheduleUpTo w n).getD i 0 = (scheduleUpTo w m).getD i 0 := by
  induction n, hmn using Nat.le_induction with
  | base => rfl
  | succ n hmn ih => rw [scheduleUpTo, List.getD_append _ _ _ _ (by simp; omega), ih]

/-- W[t] is already there once t + 1 words are. -/
theorem scheduleWord_eq {t : Fin 80} {m : Nat} (hm : m ≤ 64) (ht : t.val < 16 + m) :
    scheduleWord w t = (scheduleUpTo w m).getD t.val 0 :=
  scheduleUpTo_getD w hm ht

/-- The first sixteen schedule words are the block's (R120). -/
theorem scheduleWord_block {t : Fin 80} (ht : t.val < 16) : scheduleWord w t = w[t.val] := by
  rw [scheduleWord_eq w (Nat.zero_le 64) ht, scheduleUpTo, List.getD_eq_getElem _ _ (by simpa using ht)]
  simp

/-- The other schedule words by their recurrence (R121). -/
theorem scheduleWord_derived {t : Fin 80} (ht : 16 ≤ t.val) : scheduleWord w t =
    rotl (scheduleWord w ⟨t.val - 3, by omega⟩ ^^^ scheduleWord w ⟨t.val - 8, by omega⟩ ^^^
      scheduleWord w ⟨t.val - 14, by omega⟩ ^^^ scheduleWord w ⟨t.val - 16, by omega⟩) 1 := by
  obtain ⟨m, hm⟩ := Nat.exists_eq_add_of_le ht
  have hprev (k : Nat) (hk : 1 ≤ k ∧ k ≤ 16) :
      scheduleWord w ⟨t.val - k, by omega⟩ = (scheduleUpTo w m).getD (t.val - k) 0 :=
    scheduleWord_eq w (by omega) (by simp only; omega)
  rw [scheduleWord_eq w (m := m + 1) (by omega) (by omega), scheduleUpTo,
    List.getD_append_right _ _ _ _ (by simp; omega), hprev 3 (by omega), hprev 8 (by omega), hprev 14 (by omega),
    hprev 16 (by omega)]
  simp [nextScheduleWord, hm]

variable {w} {win : Vector Word 16} {t : Fin 80}

/-- A block that has just been loaded holds its own first words. -/
theorem windowHolds_load (w : Vector Word 16) : WindowHolds w w 0 := by
  intro u _ hu
  have hu16 : u.val < 16 := by omega
  rw [scheduleWord_block w hu16]
  simp [Nat.mod_eq_of_lt hu16]

/-- SCHED_STEP of the first sixteen rounds takes the window's word, and of a later round derives one (R122). -/
theorem schedStep_block (ht : t.val < 16) : schedStep win t = (win[t.val], win) := dif_pos ht

theorem schedStep_derived (ht : ¬ t.val < 16) :
    schedStep win t = (windowWord win t.val, win.set (t.val % 16) (windowWord win t.val)) := dif_neg ht

/-- From a window that holds the words it should, SCHED_STEP computes the schedule word of its round (R123). -/
theorem WindowHolds.schedStep_word (h : WindowHolds w win t.val) : (schedStep win t).1 = scheduleWord w t := by
  by_cases ht : t.val < 16
  · rw [schedStep_block ht, ← h t (by omega) (by omega)]
    simp [Nat.mod_eq_of_lt ht]
  · have hword (k : Nat) (hk : 1 ≤ k ∧ k ≤ 16) : win[(t.val - k) % 16] = scheduleWord w ⟨t.val - k, by omega⟩ :=
      h ⟨t.val - k, by omega⟩ (by simp only; omega) (by simp only; omega)
    have hlast : win[t.val % 16] = scheduleWord w ⟨t.val - 16, by omega⟩ := by
      rw [← hword 16 (by omega)]
      congr 1
      omega
    rw [schedStep_derived ht, scheduleWord_derived w (by omega), windowWord, hword 3 (by omega), hword 8 (by omega),
      hword 14 (by omega), hlast]

/-- And the window it leaves holds the words of the next round (R123). -/
theorem WindowHolds.schedStep_window (h : WindowHolds w win t.val) :
    WindowHolds w (schedStep win t).2 (t.val + 1) := by
  intro u hlo hhi
  by_cases ht : t.val < 16
  · rw [schedStep_block ht]
    exact h u (by omega) (by omega)
  · have hword := h.schedStep_word
    rw [schedStep_derived ht] at hword ⊢
    by_cases hu : u = t
    · subst hu
      exact (Vector.getElem_set_self _).trans hword
    · have hne : u.val ≠ t.val := fun hv => hu (Fin.ext hv)
      rw [Vector.getElem_set_ne _ _ (by omega)]
      exact h u (by omega) (by omega)

end

/-! ## The engine keeps its course (42_compression_rounds.md R138 to R140) -/

theorem cfRounds_succ (v : Vars) (ws : List Word) (t : Fin 80) :
    cfRounds v ws (t.val + 1) = roundVars (cfRounds v ws t.val) t (ws.getD t.val 0) := by
  simp [cfRounds]

section
variable {s : State}

theorem engineOnCourse_idle (hp : s.phase = .idle) : EngineOnCourse s ↔ s.t = 0 := by simp [EngineOnCourse, hp]

theorem engineOnCourse_round (hp : s.phase = .round) : EngineOnCourse s ↔
    s.vars = cfRounds (Vars.ofHash s.h) (schedule s.msg) s.t.val ∧ WindowHolds s.msg s.win s.t.val := by
  simp [EngineOnCourse, hp]

theorem engineOnCourse_finish (hp : s.phase = .finish) :
    EngineOnCourse s ↔ s.t = 0 ∧ s.vars = cf (Vars.ofHash s.h) s.msg := by simp [EngineOnCourse, hp]

/-- An accepted COMPRESS starts on course. -/
theorem acceptBlock_onCourse (s : State) : EngineOnCourse s.acceptBlock :=
  (engineOnCourse_round rfl).mpr ⟨rfl, windowHolds_load s.msg⟩

/-- A ROUND step on course is a round of CF. -/
theorem engineRound_vars_onCourse (hp : s.phase = .round) (h : EngineOnCourse s) :
    s.engineRound.vars = cfRounds (Vars.ofHash s.h) (schedule s.msg) (s.t.val + 1) := by
  obtain ⟨hvars, hwin⟩ := (engineOnCourse_round hp).mp h
  rw [State.engineRound_vars, hwin.schedStep_word, cfRounds_succ, ← hvars]
  rfl

theorem engineStep_onCourse (h : EngineOnCourse s) : EngineOnCourse s.engineStep := by
  cases hp : s.phase with
  | idle => rwa [engineStep_idle hp]
  | round =>
    have hvars := engineRound_vars_onCourse hp h
    obtain ⟨-, hwin⟩ := (engineOnCourse_round hp).mp h
    rw [engineStep_round hp]
    by_cases ht : s.t.val < 79
    · obtain ⟨hphase, htnext⟩ := engineRound_more ht
      rw [engineOnCourse_round hphase, htnext]
      exact ⟨hvars, hwin.schedStep_window⟩
    · obtain ⟨hphase, htnext⟩ := engineRound_last ht
      have h80 : s.t.val + 1 = 80 := by omega
      rw [h80] at hvars
      exact (engineOnCourse_finish hphase).mpr ⟨htnext, hvars⟩
  | finish =>
    rw [engineStep_finish hp]
    exact (engineOnCourse_idle rfl).mpr ((engineOnCourse_finish hp).mp h).1

/-- What every engine step keeps, any number of them keeps. -/
theorem engineRun_preserves {P : State → Prop} (hstep : ∀ u, P u → P u.engineStep) (n : Nat) (hs : P s) :
    P (State.engineRun n s) := by
  induction n generalizing s with
  | zero => exact hs
  | succ n ih => exact ih (hstep s hs)

end

/-! ## A block from its acceptance on -/

/-- The block accepted in the state s₀ is in flight in s, or has been added to the hash state since. -/
structure BlockUnderWay (s₀ s : State) : Prop where
  msg : s.msg = s₀.msg
  errBusy : s.errBusy = s₀.errBusy
  errCmd : s.errCmd = s₀.errCmd
  course : EngineOnCourse s
  stage : (s.busy = true ∧ s.h = s₀.h ∧ s.blkcnt = s₀.blkcnt) ∨
    (s.busy = false ∧ s.h = hashBlock s₀.h s₀.msg ∧ s.blkcnt = s₀.blkcnt + 1#32)

section
variable {s₀ s : State}

theorem acceptBlock_underWay (s : State) : BlockUnderWay s s.acceptBlock :=
  ⟨rfl, rfl, rfl, acceptBlock_onCourse s, Or.inl ⟨rfl, rfl, rfl⟩⟩

/-- A cycle's start and a read's answer touch the outputs only. -/
theorem BlockUnderWay.beginCycle_answer (hs : BlockUnderWay s₀ s) (v : Word) :
    BlockUnderWay s₀ (s.beginCycle.answer v) :=
  ⟨hs.msg, hs.errBusy, hs.errCmd, hs.course, hs.stage⟩

/-- An engine step on course: a ROUND step leaves the block in flight, and the FINISH step adds CF of the hash state and the
block (43_accumulate_and_digest.md R150). -/
theorem BlockUnderWay.engineStep (hs : BlockUnderWay s₀ s) : BlockUnderWay s₀ s.engineStep := by
  obtain ⟨hmsg, herrBusy, herrCmd, -⟩ := engineStep_keeps s
  refine ⟨hmsg.trans hs.msg, herrBusy.trans hs.errBusy, herrCmd.trans hs.errCmd, engineStep_onCourse hs.course, ?_⟩
  rcases hs.stage with ⟨hb, hh, hk⟩ | hdone
  · cases hp : s.phase with
    | idle => exact absurd hp ((State.busy_eq s).mp hb)
    | round =>
      rw [engineStep_round hp]
      exact Or.inl ⟨(State.busy_eq _).mpr (engineRound_busy s), hh, hk⟩
    | finish =>
      obtain ⟨-, hvars⟩ := (engineOnCourse_finish hp).mp hs.course
      rw [engineStep_finish hp]
      refine Or.inr ⟨rfl, ?_, congrArg (· + 1) hk⟩
      rw [State.engineFinish_h, hvars, hh, hs.msg, hashBlock]
  · rw [engineStep_idle ((State.busy_false s).mp hdone.1)]
    exact Or.inr hdone

theorem BlockUnderWay.engineRun (n : Nat) (hs : BlockUnderWay s₀ s) : BlockUnderWay s₀ (State.engineRun n s) :=
  engineRun_preserves (fun _ hu => hu.engineStep) n hs

end

/-! ## What one listed cycle does (20_memory.md R60) -/

section
variable {s t : State} {e : Code}

theorem CycleRuns.presents (h : CycleRuns s (some e) t) :
    s.now.rst = false ∧ s.Presents (decode e) ∧ step s = .next t := by
  obtain ⟨c, rest, hc, hr, hn, hs⟩ := h
  obtain ⟨d, hd, hde⟩ : ∃ d, c.presents = some d ∧ d.bare = e.bare := by simpa using hn
  rw [State.Presents, now_of_cycles hc]
  exact ⟨hr, ⟨d, hd, by rw [← decode_bare d, hde, decode_bare]⟩, hs⟩

/-- A step in which the host changes nothing but rdata: the engine's steps from the cycle's start. -/
def QuietStep (s t : State) : Prop := ∃ v, t = State.engineRun s.engineShare (s.beginCycle.answer v)

/-- A cycle without a transaction is quiet, rdata being the free value (44_host_commands.md R190). -/
theorem CycleRuns.quiet_silent (h : CycleRuns s none t) : QuietStep s t := by
  obtain ⟨c, rest, hc, hr, hn, hs⟩ := h
  have hnow := now_of_cycles hc
  have hnone : s.now.presents = none := by simpa [hnow] using hn
  rcases step_cases hs with ⟨hrst, -⟩ | ⟨-, u, ⟨-, rfl⟩ | ⟨d, hd, -⟩, ht⟩
  · simp [hnow, hr] at hrst
  · exact ⟨s.beginCycle.rdata, ht⟩
  · simp [hnone] at hd

/-- A cycle that reads STATUS answers it, and then come the engine's steps (44_host_commands.md R178). -/
theorem CycleRuns.readsStatus (h : CycleRuns s (some (rd .status)) t) :
    t = State.engineRun s.engineShare (s.beginCycle.answer s.statusWord) := by
  obtain ⟨hr, hi, hs⟩ := h.presents
  exact Host.Outcome.next.inj (hs.symm.trans (step_presented hr hi rfl))

theorem CycleRuns.quiet_readStatus (h : CycleRuns s (some (rd .status)) t) : QuietStep s t :=
  ⟨s.statusWord, h.readsStatus⟩

theorem statusWord_bit0 (s : State) : s.statusWord.getLsbD 0 = s.busy := by
  have hbit : ∀ a b c : Bool, ((BitVec.ofBool a ++ BitVec.ofBool b ++ BitVec.ofBool c).setWidth 32).getLsbD 0 = c := by
    decide
  exact hbit _ _ _

/-- POLL's test of the value that a read of STATUS leaves on rdata is BUSY as it was before the edge. -/
theorem CycleRuns.pollAgain_rdata (h : CycleRuns s (some (rd .status)) t) : pollAgain t.rdata = s.busy := by
  obtain ⟨-, -, -, hrdata, -⟩ := engineRun_keeps s.engineShare (s.beginCycle.answer s.statusWord)
  rw [pollAgain, h.readsStatus, hrdata, State.answer_rdata, statusWord_bit0]

theorem QuietStep.underWay {s₀ : State} (h : QuietStep s t) (hs : BlockUnderWay s₀ s) : BlockUnderWay s₀ t := by
  obtain ⟨v, rfl⟩ := h
  exact (hs.beginCycle_answer v).engineRun _

/-- t is idle, with the hash state, the counter and the error bits of s. -/
structure IdleAs (s t : State) : Prop where
  busy : t.busy = false
  h : t.h = s.h
  blkcnt : t.blkcnt = s.blkcnt
  errBusy : t.errBusy = s.errBusy
  errCmd : t.errCmd = s.errCmd

theorem IdleAs.trans {u : State} (hst : IdleAs s t) (htu : IdleAs t u) : IdleAs s u :=
  ⟨htu.busy, htu.h.trans hst.h, htu.blkcnt.trans hst.blkcnt, htu.errBusy.trans hst.errBusy,
    htu.errCmd.trans hst.errCmd⟩

/-- A quiet step of an idle machine: nothing but the outputs changes (60_exceptions.md R215). -/
theorem QuietStep.idle (h : QuietStep s t) (hb : s.busy = false) : IdleAs s t ∧ t.msg = s.msg := by
  obtain ⟨v, rfl⟩ := h
  rw [engineShare_idle hb, engineRun_zero]
  exact ⟨⟨hb, rfl, rfl, rfl, rfl⟩, rfl⟩

/-- The code of a MSG write decodes to it. -/
theorem decode_wr_msg (i : Fin 16) (v : Word) : decode (wr (.msg i) v) = .wrMsg i v :=
  (decode_msgAddr (msgAddr_toNat i) v).2

/-- MSG writes at different indices are different codes. -/
theorem wr_msg_index_inj {i k : Fin 16} {v v' : Word} (h : wr (.msg i) v = wr (.msg k) v') : i = k := by
  have hdec := congrArg decode h
  rw [decode_wr_msg, decode_wr_msg] at hdec
  exact (Instr.wrMsg.inj hdec).1

/-- A MSG write of an idle machine. -/
theorem CycleRuns.writesMsg {i : Fin 16} {v : Word} (h : CycleRuns s (some (wr (.msg i) v)) t)
    (hb : s.busy = false) : IdleAs s t ∧ t.msg = s.msg.set i v := by
  obtain ⟨hr, hi, hs⟩ := h.presents
  rw [decode_wr_msg] at hi
  rw [step_wrMsg_accepted hs hr hb hi]
  exact ⟨⟨hb, rfl, rfl, rfl, rfl⟩, rfl⟩

/-- A COMPRESS of an idle machine. -/
theorem CycleRuns.compresses (h : CycleRuns s (some cmdCompress) t) (hb : s.busy = false) : BlockUnderWay s t := by
  obtain ⟨hr, hi, hs⟩ := h.presents
  rw [step_acceptBlock hs hr hb hi]
  have hbegin := acceptBlock_underWay s.beginCycle
  exact ⟨hbegin.msg, hbegin.errBusy, hbegin.errCmd, hbegin.course, hbegin.stage⟩

end

/-! ## What the host plays, cycle by cycle -/

section
variable {s t : State} {l l₁ l₂ : List (Code × Word)}

/-- A run's first cycle taken off. -/
theorem Runs.uncons {c : Cycle} {cs : List Cycle} (h : Runs s (c :: cs) t) :
    ∃ u rest, s.cycles = c :: rest ∧ c.rst = false ∧ step s = .next u ∧ Runs u cs t := by
  obtain ⟨hrst, ⟨after, hc⟩, hrun⟩ := h
  obtain ⟨u, hu⟩ := noStepStops s
  rw [List.length_cons, run_succ _ hu] at hrun
  have hcu : u.cycles = cs ++ after := by rw [step_cycles hu, hc]; rfl
  exact ⟨u, cs ++ after, hc, hrst c (by simp), hu, fun d hd => hrst d (by simp [hd]), ⟨after, hcu⟩, hrun⟩

/-- The converse of `Observes.plays`: a run in which the host presents codes is one in which it sees some values. -/
theorem Plays.observes {codes : List Code} (h : Plays s codes t) :
    ∃ l : List (Code × Word), l.map Prod.fst = codes ∧ Observes s l t := by
  obtain ⟨cs, hrun, hcodes⟩ := h
  induction cs generalizing s codes with
  | nil =>
    obtain ⟨-, -, hrun⟩ := hrun
    cases hrun
    obtain rfl : codes = [] := by simpa using hcodes.symm
    exact ⟨[], rfl, .done _⟩
  | cons c cs ih =>
    obtain ⟨u, rest, hc, hr, hu, hrest⟩ := hrun.uncons
    cases hp : c.presents with
    | none =>
      rw [List.filterMap_cons_none hp] at hcodes
      obtain ⟨l, hl, hobs⟩ := ih hrest hcodes
      exact ⟨l, hl, .idle ⟨c, rest, hc, hr, by rw [hp], hu⟩ hobs⟩
    | some d =>
      rw [List.filterMap_cons_some hp] at hcodes
      cases codes with
      | nil => simp at hcodes
      | cons e codes =>
        obtain ⟨hde, htail⟩ := List.cons.inj hcodes
        obtain ⟨l, hl, hobs⟩ := ih hrest htail
        exact ⟨(e, u.rdata) :: l, by rw [List.map_cons, hl],
          .code ⟨c, rest, hc, hr, by rw [hp]; exact congrArg some hde, hu⟩ hobs⟩

/-- What the host does one after the other splits at any point. -/
theorem Observes.split (h : Observes s (l₁ ++ l₂) t) : ∃ u, Observes s l₁ u ∧ Observes u l₂ t := by
  generalize hl : l₁ ++ l₂ = l at h
  induction h generalizing l₁ with
  | done s =>
    obtain ⟨rfl, rfl⟩ := List.append_eq_nil_iff.mp hl
    exact ⟨s, .done s, .done s⟩
  | idle cycle _ ih =>
    obtain ⟨u, h₁, h₂⟩ := ih hl
    exact ⟨u, .idle cycle h₁, h₂⟩
  | code cycle rest ih =>
    cases l₁ with
    | nil =>
      obtain rfl := hl
      exact ⟨_, .done _, .code cycle rest⟩
    | cons x l₁ =>
      obtain ⟨rfl, htail⟩ := List.cons.inj hl
      obtain ⟨u, h₁, h₂⟩ := ih htail
      exact ⟨u, .code cycle h₁, h₂⟩

/-- MSG writes of the words of w, in any order, on an idle machine: each word written is there after them, and so is each
that was there before. -/
theorem Observes.loads {w : Vector Word 16} (h : Observes s l t) (hb : s.busy = false)
    (hl : ∀ e ∈ l.map Prod.fst, ∃ i : Fin 16, e = wr (.msg i) w[i]) :
    IdleAs s t ∧ ∀ i : Fin 16, wr (.msg i) w[i] ∈ l.map Prod.fst ∨ s.msg[i] = w[i] → t.msg[i] = w[i] := by
  induction h with
  | done s => exact ⟨⟨hb, rfl, rfl, rfl, rfl⟩, fun i hi => hi.resolve_left (by simp)⟩
  | idle cycle _ ih =>
    obtain ⟨hidle, hmsg⟩ := cycle.quiet_silent.idle hb
    obtain ⟨hkept, hload⟩ := ih hidle.busy hl
    exact ⟨hidle.trans hkept, fun i hi => hload i (by rwa [hmsg])⟩
  | code cycle _ ih =>
    rw [List.map_cons, List.forall_mem_cons] at hl
    obtain ⟨⟨k, rfl⟩, hl⟩ := hl
    obtain ⟨hidle, hmsg⟩ := cycle.writesMsg hb
    obtain ⟨hkept, hload⟩ := ih hidle.busy hl
    refine ⟨hidle.trans hkept, fun i hi => hload i ?_⟩
    by_cases hik : k = i
    · right
      rw [hmsg, hik]
      exact Vector.getElem_set_self _
    · have hne : k.val ≠ i.val := fun hv => hik (Fin.ext hv)
      rcases hi with hi | hi
      · rcases List.mem_cons.mp hi with hhead | htail
        · exact absurd (wr_msg_index_inj hhead).symm hik
        · exact Or.inl htail
      · right
        rw [hmsg, ← hi]
        exact Vector.getElem_set_ne _ _ hne

/-- The sixteen writes of LOADBLK, in any order, leave MSG = w, and all but MSG as it was (30_encoding.md R85). -/
theorem Observes.loadsBlock {w : Vector Word 16} (h : Observes s l t) (hb : s.busy = false)
    (hperm : (l.map Prod.fst).Perm (loadBlk w)) : IdleAs s t ∧ t.msg = w := by
  have hmem (e : Code) : e ∈ l.map Prod.fst ↔ ∃ i : Fin 16, wr (.msg i) w[i] = e := by
    rw [hperm.mem_iff, loadBlk, List.mem_map]
    simp
  obtain ⟨hidle, hload⟩ := h.loads hb fun e he => ((hmem e).mp he).imp fun _ hi => hi.symm
  refine ⟨hidle, Vector.ext fun i hi => ?_⟩
  exact hload ⟨i, hi⟩ (Or.inl ((hmem _).mpr ⟨⟨i, hi⟩, rfl⟩))

/-- Reads of STATUS leave a block under way. -/
theorem Observes.underWay {s₀ : State} (h : Observes s l t) (hs : BlockUnderWay s₀ s)
    (hl : ∀ e ∈ l.map Prod.fst, e = rd .status) : BlockUnderWay s₀ t := by
  induction h with
  | done s => exact hs
  | idle cycle _ ih => exact ih (cycle.quiet_silent.underWay hs) hl
  | code cycle _ ih =>
    rw [List.map_cons, List.forall_mem_cons] at hl
    obtain ⟨rfl, hl⟩ := hl
    exact ih (cycle.quiet_readStatus.underWay hs) hl

/-- CMD COMPRESS on an idle machine puts the block in MSG under way. -/
theorem Observes.compresses {v : Word} (h : Observes s [(cmdCompress, v)] t) (hb : s.busy = false) :
    ∃ s₀, IdleAs s s₀ ∧ s₀.msg = s.msg ∧ BlockUnderWay s₀ t := by
  generalize hl : [(cmdCompress, v)] = l at h
  induction h with
  | done s => simp at hl
  | idle cycle _ ih =>
    obtain ⟨hidle, hmsg⟩ := cycle.quiet_silent.idle hb
    obtain ⟨s₀, hidle₀, hmsg₀, hs₀⟩ := ih hidle.busy hl
    exact ⟨s₀, hidle.trans hidle₀, hmsg₀.trans hmsg, hs₀⟩
  | @code s _ _ _ _ cycle rest _ =>
    obtain ⟨hhead, rfl⟩ := List.cons.inj hl
    rw [← (Prod.mk.inj hhead).1] at cycle
    exact ⟨s, ⟨hb, rfl, rfl, rfl, rfl⟩, rfl, rest.underWay (cycle.compresses hb) (by simp)⟩

/-- POLL ends with BUSY = 0: the last value read was STATUS with BUSY = 0, and quiet steps keep it so (30_encoding.md R85). -/
theorem Observes.polls {vs : List Word} (h : Observes s (vs.map fun v => (rd .status, v)) t)
    (hend : pollEnds vs = true ∨ s.busy = false) : t.busy = false := by
  generalize hl : (vs.map fun v => (rd .status, v)) = l at h
  induction h generalizing vs with
  | done s =>
    obtain rfl := List.map_eq_nil_iff.mp hl
    exact hend.resolve_left (by simp [pollEnds])
  | idle cycle _ ih => exact ih (hend.imp_right fun hb => (cycle.quiet_silent.idle hb).1.busy) hl
  | @code s u _ _ _ cycle _ ih =>
    cases vs with
    | nil => simp at hl
    | cons v vs =>
      obtain ⟨hhead, htail⟩ := List.cons.inj hl
      obtain ⟨rfl, rfl⟩ := Prod.mk.inj hhead
      cases hb : s.busy with
      | true =>
        have hagain : pollAgain u.rdata = true := cycle.pollAgain_rdata.trans hb
        rw [pollEnds_again hagain] at hend
        exact ih (Or.inl (hend.resolve_right (by simp [hb]))) htail
      | false => exact ih (Or.inr (cycle.quiet_readStatus.idle hb).1.busy) htail

/-! ## LOADBLK and HASHBLK (30_encoding.md R85) -/

/-- LOADBLK and CMD COMPRESS on an idle machine put the block w under way. -/
theorem Observes.hashes {w : Vector Word 16} (h : Observes s l t) (hb : s.busy = false)
    (hl : l.map Prod.fst = loadBlk w ++ [cmdCompress]) :
    ∃ s₀, IdleAs s s₀ ∧ s₀.msg = w ∧ BlockUnderWay s₀ t := by
  obtain ⟨l₁, l₂, rfl, hload, hcomp⟩ := List.map_eq_append_iff.mp hl
  obtain ⟨⟨c, v⟩, rfl, hc⟩ := List.map_eq_singleton_iff.mp hcomp
  obtain rfl : c = cmdCompress := hc
  obtain ⟨u, h₁, h₂⟩ := h.split
  obtain ⟨hidle, hmsg⟩ := h₁.loadsBlock hb (.of_eq hload)
  obtain ⟨s₀, hidle₀, hmsg₀, hs₀⟩ := h₂.compresses hidle.busy
  exact ⟨s₀, hidle.trans hidle₀, hmsg₀.trans hmsg, hs₀⟩

/-- A block that was under way is hashed once BUSY is 0. -/
theorem BlockUnderWay.hashed {s₀ : State} (h : BlockUnderWay s₀ t) (hidle : IdleAs s s₀) (hb : t.busy = false) :
    t.busy = false ∧ t.h = hashBlock s.h s₀.msg ∧ t.blkcnt = s.blkcnt + 1#32 ∧ t.msg = s₀.msg ∧
      t.errBusy = s.errBusy ∧ t.errCmd = s.errCmd := by
  rcases h.stage with ⟨hbusy, -⟩ | ⟨-, hh, hk⟩
  · simp [hb] at hbusy
  · exact ⟨hb, by rw [hh, hidle.h], by rw [hk, hidle.blkcnt], h.msg, h.errBusy.trans hidle.errBusy,
      h.errCmd.trans hidle.errCmd⟩

end

/-- Settles O60: each of the sixteen words is written, and no write undoes another's. -/
theorem loadOrderIsFree : Obligations.LoadOrderIsFree := by
  intro s t w codes hb hperm hplays
  obtain ⟨l, rfl, hobs⟩ := hplays.observes
  exact (hobs.loadsBlock hb hperm).2

/-- Settles O58: from the accepted COMPRESS on the block is under way, and the POLL, or the premise, says that BUSY is 0. -/
theorem hashBlockHashes : Obligations.HashBlockHashes := by
  rintro s t w hb (⟨u, hplays, vs, hend, hpolls⟩ | ⟨n, hplays, hidle⟩)
  · obtain ⟨l, hl, hobs⟩ := hplays.observes
    obtain ⟨s₀, hidle, rfl, hu⟩ := hobs.hashes hb hl
    exact (hpolls.underWay hu (by simp)).hashed hidle (hpolls.polls (Or.inl hend))
  · obtain ⟨l, hl, hobs⟩ := hplays.observes
    obtain ⟨l₁, l₂, rfl, hload, hpoll⟩ := List.map_eq_append_iff.mp hl
    obtain ⟨u, h₁, h₂⟩ := hobs.split
    obtain ⟨s₀, hidle₀, rfl, hu⟩ := h₁.hashes hb hload
    have ht := h₂.underWay hu fun e he => List.eq_of_mem_replicate (by rwa [hpoll] at he)
    exact ht.hashed hidle₀ hidle

end Sys2Proof.Machine

/-! SUPPORT. PROOFS of the family 40_message_formatting.md: the padding, the block split, the formatter's domain, and the
host's protocol for a message against SHA1(m). -/

namespace Sys2Proof.Machine

/-! ## The padding (40_message_formatting.md R101 to R104) -/

/-- Z(L) where the 9 bytes of 0x80 and the length field still fit the last block of the message. -/
theorem padZeros_fits {L : Nat} (h : L % 64 ≤ 55) : padZeros L = 55 - L % 64 := by
  rw [padZeros]
  omega

/-- Z(L) where they do not, and a block is added. -/
theorem padZeros_spills {L : Nat} (h : 56 ≤ L % 64) : padZeros L = 119 - L % 64 := by
  rw [padZeros]
  omega

theorem padZeros_le (L : Nat) : padZeros L ≤ 63 := by
  rw [padZeros]
  omega

/-- The zero bytes bring the length field to byte 56 of a block (R102). -/
theorem padZeros_aligns (L : Nat) : (L + 1 + padZeros L) % 64 = 56 := by
  rw [padZeros]
  omega

/-- Z(L) is the least number of zero bytes that does so: two such numbers differ by a multiple of 64, and Z(L) is below 64. -/
theorem padZeros_least {L z : Nat} (hz : (L + 1 + z) % 64 = 56) : padZeros L ≤ z := by
  have haligned := padZeros_aligns L
  have hle := padZeros_le L
  omega

/-- Settles O53: Z(L) in its two cases, and the length of PAD(m) from it. -/
theorem paddingLengths : Obligations.PaddingLengths := by
  refine ⟨fun L => ⟨padZeros_le L, padZeros_fits, padZeros_spills, padZeros_aligns L, fun z => padZeros_least⟩,
    fun m => ⟨pad_length m, pad_length_mod m, by rw [pad_length]; omega, Nat.le_add_right _ _, ?_, fun h => ?_, fun h => ?_⟩⟩
  · have hle := padZeros_le m.length
    omega
  · rw [padZeros_fits (by omega), h]
  · rw [padZeros_spills (by omega), h]

/-- The length field of an accepted message, read most significant byte first, is the bit length: it fits 64 bits (R103,
R107). -/
theorem lengthField_value {L : Nat} (h : L ≤ Config.maxMessageBytes) :
    (lengthField L).foldl (fun n x => 256 * n + x.toNat) 0 = 8 * L := by
  rw [Config.maxMessageBytes] at h
  rw [lengthField, bytesBe_value, bitLength_of_le h, Nat.mod_eq_of_lt (by omega), Nat.mul_zero, Nat.zero_add]

/-- Settles O54: the pieces of `pad`, regrouped, and `lengthField_value`. -/
theorem paddedMessageLayout : Obligations.PaddedMessageLayout := fun m =>
  ⟨List.replicate (padZeros m.length) 0#8, lengthField m.length, by simp [pad], List.length_replicate,
    fun _ hx => List.eq_of_mem_replicate hx, lengthField_length _, rfl, lengthField_value⟩

/-! ## The block split (40_message_formatting.md R105, R106) -/

theorem splitBlocks_length (p : List Byte) : (splitBlocks p).length = p.length / 64 := by
  simp [splitBlocks]

theorem splitBlocks_getElem? {p : List Byte} {j : Nat} (hj : j < p.length / 64) :
    (splitBlocks p)[j]? = some ((p.drop (64 * j)).take 64) := by
  simp [splitBlocks, hj]

theorem splitBlocks_block_length {p b : List Byte} (hb : b ∈ splitBlocks p) : b.length = 64 := by
  obtain ⟨j, hj, rfl⟩ := List.mem_map.mp hb
  rw [List.mem_range] at hj
  simp only [List.length_take, List.length_drop]
  omega

/-- The first n chunks are the first 64 n bytes. -/
theorem flatten_chunks (p : List Byte) (n : Nat) :
    ((List.range n).map fun j => (p.drop (64 * j)).take 64).flatten = p.take (64 * n) := by
  induction n with
  | zero => simp
  | succ n ih =>
    rw [List.range_succ, List.map_append, List.flatten_append, ih, Nat.mul_succ, List.take_add]
    simp

/-- Whole blocks leave no remainder. -/
theorem splitBlocks_flatten {p : List Byte} (hmod : p.length % 64 = 0) : (splitBlocks p).flatten = p := by
  rw [splitBlocks, flatten_chunks, List.take_of_length_le (by omega)]

/-- The block split goes block by block. -/
theorem splitBlocks_append {b : List Byte} (hb : b.length = 64) (p : List Byte) :
    splitBlocks (b ++ p) = b :: splitBlocks p := by
  have hcount : (b ++ p).length / 64 = p.length / 64 + 1 := by
    rw [List.length_append]
    omega
  have hdrop (j : Nat) : (b ++ p).drop (64 * (j + 1)) = p.drop (64 * j) := by
    rw [Nat.mul_succ, Nat.add_comm, ← hb, List.drop_length_add_append]
  rw [splitBlocks, hcount, List.range_succ_eq_map, List.map_cons, List.map_map, splitBlocks]
  simp [hdrop, List.take_left' hb]

/-- The number of blocks of a message. -/
theorem splitBlocks_pad_length (m : List Byte) : (splitBlocks (pad m)).length = (m.length + 8) / 64 + 1 := by
  have haligned := padZeros_aligns m.length
  have hle := padZeros_le m.length
  rw [splitBlocks_length, pad_length]
  omega

/-- A message of 56 to 63 bytes leaves room for 0x80 in its block, and none for the length field. -/
theorem pad_spilling {m : List Byte} (hlo : 56 ≤ m.length) (hhi : m.length ≤ 63) :
    pad m = (m ++ 0x80#8 :: List.replicate (63 - m.length) 0#8) ++ (List.replicate 56 0#8 ++ lengthField m.length) := by
  have hzeros : padZeros m.length = (63 - m.length) + 56 := by
    rw [padZeros_spills (by omega)]
    omega
  rw [pad, hzeros, List.replicate_add]
  simp

theorem splitBlocks_pad_spilling {m : List Byte} (hlo : 56 ≤ m.length) (hhi : m.length ≤ 63) :
    splitBlocks (pad m) =
      [m ++ 0x80#8 :: List.replicate (63 - m.length) 0#8, List.replicate 56 0#8 ++ lengthField m.length] := by
  have hlast := splitBlocks_append (b := List.replicate 56 0#8 ++ lengthField m.length) (by simp) []
  rw [List.append_nil] at hlast
  rw [pad_spilling hlo hhi, splitBlocks_append (by simp; omega), hlast]
  rfl

/-- Settles O55: the chunks of a whole number of blocks, their number, and the last of them. -/
theorem blockSplitAndCount : Obligations.BlockSplitAndCount := by
  intro m
  have hcount := splitBlocks_pad_length m
  obtain ⟨front, -, hlast⟩ := lastBlock_lengthField m
  exact ⟨splitBlocks_flatten (pad_length_mod m), fun b => splitBlocks_block_length, fun j => splitBlocks_getElem?,
    hcount, by omega, splitBlocks_length _, fun _ => by omega, fun _ _ => by omega, fun _ _ => by omega,
    ⟨front, hlast⟩, splitBlocks_pad_spilling⟩

/-! ## The formatter's domain (40_message_formatting.md R107, R108) -/

theorem formatMessage_of_le {m : List Byte} (h : m.length ≤ Config.maxMessageBytes) :
    formatMessage m = .ok ((splitBlocks (pad m)).map blockWords) := if_pos h

theorem formatMessage_of_gt {m : List Byte} (h : Config.maxMessageBytes < m.length) :
    formatMessage m = .error .messageTooLong := if_neg (Nat.not_le.mpr h)

theorem sha1_of_ok {m : List Byte} {ws : List (Vector Word 16)} (h : formatMessage m = .ok ws) :
    sha1 m = .ok (hexStr (ws.foldl hashBlock iv)) := by
  simp only [sha1, h]

theorem sha1_of_error {m : List Byte} {e : FormatError} (h : formatMessage m = .error e) : sha1 m = .error e := by
  simp only [sha1, h]

/-- Settles O57: the formatter's check of the length, which the digest passes on. -/
theorem formatterRefusesLongMessages : Obligations.FormatterRefusesLongMessages := by
  refine fun m => ⟨fun hle => ?_, fun hgt => ?_⟩
  · have hok := formatMessage_of_le hle
    exact ⟨⟨_, hok⟩, _, sha1_of_ok hok⟩
  · have herror := formatMessage_of_gt hgt
    exact ⟨herror, sha1_of_error herror⟩

/-! ## The digest string and its words (43_accumulate_and_digest.md R153, R154) -/

theorem hexStr_getElem? (h : Vector Word 5) (c : Fin 40) : (hexStr h)[c.val]? = some (digestChar h c) := by
  simp [hexStr]

/-- Byte q of a big-endian word, counted from the most significant one. -/
theorem wordBe_byte (f : Fin 4 → Byte) (q : Fin 4) :
    (wordBe (f 0) (f 1) (f 2) (f 3)).extractLsb' (24 - 8 * q.val) 8 = f q := by
  obtain ⟨h0, h1, h2, h3⟩ := wordBe_bytes (f 0) (f 1) (f 2) (f 3)
  fin_cases q
  · exact h0
  · exact h1
  · exact h2
  · exact h3

/-- HEX[j] holds characters 4j .. 4j+3, the earlier one in the more significant byte. -/
theorem hexStr_hexWord (h : Vector Word 5) (j : Fin 10) (q : Fin 4) :
    (hexStr h)[4 * j.val + q.val]? = some ((hexWord h j).extractLsb' (24 - 8 * q.val) 8) := by
  have hbyte := wordBe_byte (fun q => digestChar h ⟨4 * j.val + q.val, by omega⟩) q
  exact (hexStr_getElem? h ⟨4 * j.val + q.val, by omega⟩).trans (congrArg some hbyte.symm)

/-! ## The host's protocol (40_message_formatting.md R108, R109) -/

section
variable {s t : State}

/-- A CMD INIT of an idle machine starts a run (44_host_commands.md R175). -/
theorem CycleRuns.starts (h : CycleRuns s (some cmdInit) t) (hb : s.busy = false) : IdleAs s.startRun t := by
  obtain ⟨hr, hi, hs⟩ := h.presents
  rw [step_startRun hs hr hb hi]
  exact ⟨hb, rfl, rfl, rfl, rfl⟩

/-- Cycles without a transaction leave an idle machine as it is (60_exceptions.md R215). -/
theorem Observes.silent (h : Observes s [] t) (hb : s.busy = false) : IdleAs s t :=
  (h.loads (w := s.msg) hb (by simp)).1

/-- CMD INIT on an idle machine, with idle cycles before and after it. -/
theorem Observes.starts {v : Word} (h : Observes s [(cmdInit, v)] t) (hb : s.busy = false) : IdleAs s.startRun t := by
  generalize hl : [(cmdInit, v)] = l at h
  induction h with
  | done s => simp at hl
  | idle cycle _ ih =>
    have hidle := (cycle.quiet_silent.idle hb).1
    have hstart := ih hidle.busy hl
    exact ⟨hstart.busy, hstart.h, hstart.blkcnt, hstart.errBusy.trans hidle.errBusy, hstart.errCmd.trans hidle.errCmd⟩
  | code cycle rest _ =>
    obtain ⟨hhead, rfl⟩ := List.cons.inj hl
    rw [← (Prod.mk.inj hhead).1] at cycle
    have hstart := cycle.starts hb
    exact hstart.trans (rest.silent hstart.busy)

theorem Plays.starts (h : Plays s [cmdInit] t) (hb : s.busy = false) : IdleAs s.startRun t := by
  obtain ⟨l, hl, hobs⟩ := h.observes
  obtain ⟨⟨c, v⟩, rfl, rfl⟩ := List.map_eq_singleton_iff.mp hl
  exact hobs.starts hb

/-- Feeding blocks to an idle machine folds them into the hash state and counts them: HASHBLK block by block. -/
theorem FeedsBlocks.folds {ws : List (Vector Word 16)} (h : FeedsBlocks s ws t) (hb : s.busy = false) :
    t.h = ws.foldl hashBlock s.h ∧ t.blkcnt = s.blkcnt + BitVec.ofNat 32 ws.length ∧ t.errBusy = s.errBusy ∧
      t.errCmd = s.errCmd := by
  induction h with
  | done s => simp
  | block hblock _ ih =>
    obtain ⟨hidle, hh, hk, -, herrBusy, herrCmd⟩ := hashBlockHashes _ _ _ hb (Or.inl hblock)
    obtain ⟨ihh, ihk, ihBusy, ihCmd⟩ := ih hidle
    refine ⟨by rw [ihh, hh, List.foldl_cons], ?_, ihBusy.trans herrBusy, ihCmd.trans herrCmd⟩
    rw [ihk, hk, List.length_cons, BitVec.ofNat_add, BitVec.add_assoc, BitVec.add_comm 1#32]

end

/-- Settles O59: either start leaves the machine idle with H = IV and BLKCNT = 0, and from there the blocks fold into H. -/
theorem hostProtocolGivesSha1 : Obligations.HostProtocolGivesSha1 := by
  intro m d ws hformat hsha s s₀ t hb hstart hfeeds
  obtain rfl : hexStr (ws.foldl hashBlock iv) = d := Except.ok.inj ((sha1_of_ok hformat).symm.trans hsha)
  have hidle : IdleAs s.startRun s₀ := by
    rcases hstart with hinit | ⟨rfl, hiv, hzero⟩
    · exact hinit.starts hb
    · exact ⟨hb, hiv, hzero, rfl, rfl⟩
  obtain ⟨hh, hk, herrBusy, herrCmd⟩ := hfeeds.folds hidle.busy
  rw [hidle.h, State.startRun_h] at hh
  rw [hidle.blkcnt, State.startRun_blkcnt] at hk
  rw [← hh]
  exact ⟨rfl, rfl, by rw [hk]; exact BitVec.zero_add _, herrBusy.trans hidle.errBusy, herrCmd.trans hidle.errCmd,
    hexStr_hexWord t.h⟩

end Sys2Proof.Machine

/-! SUPPORT. PROOFS of the family 41_message_schedule.md: SCHED_STEP, the schedule words, the window against the array, and
that every step of the machine keeps a COMPRESS in flight on course. -/

namespace Sys2Proof.Machine

/-! ## Every step keeps the engine on course (41_message_schedule.md R123, 20_memory.md R60) -/

section
variable {s t : State}

/-- The invariant reads H, A..E, MSG, WIN, PHASE and T only. -/
theorem EngineOnCourse.congr (h : EngineOnCourse s) (hh : t.h = s.h) (hvars : t.vars = s.vars) (hmsg : t.msg = s.msg)
    (hwin : t.win = s.win) (hphase : t.phase = s.phase) (ht : t.t = s.t) : EngineOnCourse t := by
  rwa [EngineOnCourse, hh, hvars, hmsg, hwin, hphase, ht]

/-- An instruction cannot spoil a COMPRESS in flight, as it writes nothing the engine reads; on an idle machine it keeps
T = 0, or it is an accepted COMPRESS, which starts on course. -/
theorem HostEffect.onCourse {i : Instr} (he : HostEffect s i t) (h : EngineOnCourse s) : EngineOnCourse t := by
  cases hb : s.busy with
  | true =>
    obtain ⟨hh, hvars, hmsg, hwin, hphase, ht, -⟩ := he.keeps_engine hb
    exact h.congr hh hvars hmsg hwin hphase ht
  | false =>
    have hidle : s.phase = .idle := (State.busy_false s).mp hb
    rcases he.accepts_or_keeps with ⟨-, -, rfl⟩ | ⟨-, -, hphase, ht⟩
    · exact acceptBlock_onCourse s
    · exact (engineOnCourse_idle (hphase.trans hidle)).mpr (ht.trans ((engineOnCourse_idle hidle).mp h))

/-- A cycle's start touches the outputs only, and then comes nothing or an instruction. -/
theorem CycleEffect.onCourse (hu : CycleEffect s t) (h : EngineOnCourse s) : EngineOnCourse t := by
  have hbegin : EngineOnCourse s.beginCycle := h.congr rfl rfl rfl rfl rfl rfl
  rcases hu.cases_presents with rfl | ⟨i, -, he⟩
  · exact hbegin
  · exact he.onCourse hbegin

end

/-- Settles O43: a reset edge leaves the engine idle with T = 0; else the host step keeps the course, and so does each
engine step after it. -/
theorem engineOnCourseKept : Obligations.EngineOnCourseKept := by
  intro s t h hstep
  rcases step_cases hstep with ⟨-, rfl⟩ | ⟨-, u, hu, rfl⟩
  · exact (engineOnCourse_idle (State.resetEdge_phase s)).mpr (State.resetEdge_t s)
  · exact engineRun_preserves (P := EngineOnCourse) (fun _ => engineStep_onCourse) s.engineShare (hu.onCourse h)

/-! ## The schedule (41_message_schedule.md R120 to R123) -/

/-- Settles O34: 64 words are derived after the block's 16, each by the recurrence of `scheduleWord_derived`. -/
theorem scheduleWords : Obligations.ScheduleWords :=
  fun w => ⟨scheduleUpTo_length w 64, fun i => scheduleWord_block w i.isLt, fun _ hi => scheduleWord_derived w hi⟩

/-- Before every round the window holds the words of that round: it does when the block is loaded, and each SCHED_STEP
passes it on (R123). -/
theorem windowHolds_windowAfter (w : Vector Word 16) {n : Nat} (hn : n ≤ 80) : WindowHolds w (windowAfter w n) n := by
  induction n with
  | zero => exact windowHolds_load w
  | succ n ih =>
    have hlt : n < 80 := hn
    rw [windowAfter, dif_pos hlt]
    exact WindowHolds.schedStep_window (t := ⟨n, hlt⟩) (ih hlt.le)

/-- Settles O35: a window that holds its words gives SCHED_STEP the word of the array. -/
theorem windowGivesScheduleWords : Obligations.WindowGivesScheduleWords := by
  intro w t
  have hwin : WindowHolds w (windowAfter w t.val) t.val := windowHolds_windowAfter w t.isLt.le
  exact ⟨hwin.schedStep_word, hwin⟩

/-- Settles O33: the two cases of SCHED_STEP; the later one writes entry t mod 16 of the window and no other. -/
theorem scheduleStep : Obligations.ScheduleStep := by
  intro win t
  refine ⟨schedStep_block, fun ht => ?_⟩
  rw [schedStep_derived (by omega)]
  exact ⟨rfl, Vector.getElem_set_self _, fun k hk => Vector.getElem_set_ne (by omega) k.isLt hk.symm⟩

end Sys2Proof.Machine

/-! SUPPORT. PROOFS of the family 42_compression_rounds.md: the rotation and the round functions bit by bit, one ROUND step,
the 80 rounds and the FINISH step of a COMPRESS, and that the host cannot disturb them. -/

namespace Sys2Proof.Machine

/-! ## The rotation (42_compression_rounds.md R130) -/

section
variable {b : Nat} (n : Word) (hb : 1 ≤ b ∧ b ≤ 31)

/-- Bit i of a rotation by b is bit (i - b) mod 32: below b it comes from the bits shifted out at the top, and from b on from
those shifted up. -/
theorem rotl_getLsbD {i : Nat} (hi : i < 32) : (rotl n b hb).getLsbD i = n.getLsbD ((i + 32 - b) % 32) := by
  rw [rotl, BitVec.getLsbD_or, BitVec.getLsbD_shiftLeft, BitVec.getLsbD_ushiftRight]
  by_cases hib : i < b
  · have hindex : (i + 32 - b) % 32 = 32 - b + i := by omega
    simp [hib, hindex]
  · have hindex : (i + 32 - b) % 32 = i - b := by omega
    have htop : n.getLsbD (32 - b + i) = false := BitVec.getLsbD_of_ge n _ (by omega)
    simp [hi, hib, hindex, htop]

theorem rotl_zero : rotl 0#32 b hb = 0#32 := by simp [rotl]

theorem rotl_allOnes : rotl (BitVec.allOnes 32) b hb = BitVec.allOnes 32 := by
  apply BitVec.eq_of_getLsbD_eq
  intro i hi
  rw [rotl_getLsbD _ hb hi, BitVec.getLsbD_allOnes, BitVec.getLsbD_allOnes]
  simp [hi, Nat.mod_lt]

/-- Rotating by b and then by b' takes the bit index down by b + b' modulo 32. -/
theorem rotl_rotl {b' : Nat} (hb' : 1 ≤ b' ∧ b' ≤ 31) (hs : 1 ≤ b + b' ∧ b + b' ≤ 31) :
    rotl (rotl n b hb) b' hb' = rotl n (b + b') hs := by
  apply BitVec.eq_of_getLsbD_eq
  intro i hi
  have hindex : ((i + 32 - b') % 32 + 32 - b) % 32 = (i + 32 - (b + b')) % 32 := by omega
  rw [rotl_getLsbD _ hb' hi, rotl_getLsbD n hb (Nat.mod_lt _ (by decide)), rotl_getLsbD n hs hi, hindex]

end

/-- Settles O36: the formula is the definition, and the rest follows from the bit form `rotl_getLsbD`. -/
theorem rotateLeftBits : Obligations.RotateLeftBits := fun n _ hb =>
  ⟨rfl, fun _ => rotl_getLsbD n hb, rotl_zero hb, rotl_allOnes hb, fun _ => rotl_rotl n hb⟩

/-! ## The round functions and their selection (42_compression_rounds.md R132 to R136) -/

/-- Settles O37: each round function works on the three bits at an index alone, and the eight cases of these are finite. -/
theorem roundFunctionsBitwise : Obligations.RoundFunctionsBitwise := by
  intro b c d i hi
  have hch : ∀ x y z : Bool, (x && y || !x && z) = if x then y else z := by decide
  have hmaj : ∀ x y z : Bool, (x && y || x && z || y && z) = decide (2 ≤ x.toNat + y.toNat + z.toNat) := by decide
  refine ⟨?_, ?_, ?_⟩
  · rw [← hch]
    simp [fCh, hi]
  · simp [fPar]
  · rw [← hmaj]
    simp [fMaj]

/-- The group of a round, by its half-open range. -/
theorem roundGroup_eq {t : Fin 80} {g : Fin 4} (hlo : 20 * g.val ≤ t.val) (hhi : t.val < 20 * g.val + 20) :
    roundGroup t = g := by
  apply Fin.ext
  simp only [roundGroup]
  omega

/-- Settles O38: the group by its range, and then its function and its constant are read off the tables. -/
theorem roundSelection : Obligations.RoundSelection := by
  refine fun t b c d => ⟨fun hhi => ?_, fun hlo hhi => ?_, fun hlo hhi => ?_, fun hlo => ?_⟩
  · rw [roundGroup_eq (g := 0) (Nat.zero_le _) hhi]
    exact ⟨rfl, rfl⟩
  · rw [roundGroup_eq (g := 1) hlo hhi]
    exact ⟨rfl, rfl⟩
  · rw [roundGroup_eq (g := 2) hlo hhi]
    exact ⟨rfl, rfl⟩
  · rw [roundGroup_eq (g := 3) hlo t.isLt]
    exact ⟨rfl, rfl⟩

/-! ## The rounds of one COMPRESS (42_compression_rounds.md R138, R139) -/

/-- Settles O39: a ROUND step is `engineRound`, whose fields are known; T and PHASE by `engineRound_more` and
`engineRound_last`. -/
theorem roundStep : Obligations.RoundStep := by
  intro s hp
  rw [engineStep_round hp]
  refine ⟨rfl, rfl, rfl, rfl, rfl, rfl, fun ht => ?_, fun ht => ?_, (State.busy_eq _).mpr (engineRound_busy s), rfl⟩
  · exact (engineRound_more ht).symm
  · obtain ⟨hphase, hzero⟩ := engineRound_last (s := s) (by omega)
    exact ⟨congrArg Fin.val hzero, hphase⟩

section
variable (s : State)

/-- Before round k of an accepted COMPRESS, the engine has taken k steps and T = k. -/
theorem acceptBlock_round {k : Nat} (hk : k < 80) :
    (State.engineRun k s.acceptBlock).phase = .round ∧ (State.engineRun k s.acceptBlock).t.val = k := by
  induction k with
  | zero => exact ⟨rfl, rfl⟩
  | succ k ih =>
    obtain ⟨hphase, ht⟩ := ih (by omega)
    obtain ⟨hphase', ht'⟩ := engineRound_more (s := State.engineRun k s.acceptBlock) (by omega)
    rw [engineRun_succ_last, engineStep_round hphase]
    exact ⟨hphase', ht'.trans (congrArg (· + 1) ht)⟩

/-- The 80th step is that of the last round. -/
theorem acceptBlock_finish : (State.engineRun 80 s.acceptBlock).phase = .finish := by
  obtain ⟨hphase, ht⟩ := acceptBlock_round s (k := 79) (by decide)
  rw [engineRun_succ_last, engineStep_round hphase]
  exact (engineRound_last (by omega)).1

/-- The 81st step is FINISH. -/
theorem acceptBlock_idle : (State.engineRun 81 s.acceptBlock).phase = .idle := by
  rw [engineRun_succ_last, engineStep_finish (acceptBlock_finish s)]
  rfl

/-- After FINISH the engine has nothing left to do. -/
theorem acceptBlock_stays {k : Nat} (hk : 81 ≤ k) :
    State.engineRun k s.acceptBlock = State.engineRun 81 s.acceptBlock := by
  obtain ⟨m, rfl⟩ := Nat.exists_eq_add_of_le hk
  rw [engineRun_add, engineRun_idle m (acceptBlock_idle s)]

end

/-- A block under way that is due for accumulation has A..E = CF of the hash state and the block it was accepted with. -/
theorem BlockUnderWay.finish_vars {s₀ s : State} (h : BlockUnderWay s₀ s) (hp : s.phase = .finish) :
    s.vars = cf (Vars.ofHash s₀.h) s₀.msg := by
  obtain ⟨-, hvars⟩ := (engineOnCourse_finish hp).mp h.course
  rcases h.stage with ⟨-, hh, -⟩ | ⟨hidle, -⟩
  · rw [hvars, hh, h.msg]
  · exact absurd ((State.busy_false s).mp hidle) (by simp [hp])

/-- Settles O41: round by round up to the 80th step, then FINISH, then IDLE. -/
theorem eightyRoundsThenFinish : Obligations.EightyRoundsThenFinish := by
  refine fun s => ⟨fun k => acceptBlock_round s, acceptBlock_finish s, fun k hk => ?_⟩
  rw [acceptBlock_stays s hk]
  exact ⟨rfl, acceptBlock_idle s⟩

/-- Settles O42: CF is the recurrence of `cfRounds`, and the engine is on it after its 80 rounds. -/
theorem compressComputesCF : Obligations.CompressComputesCF :=
  ⟨fun v w => ⟨cfRounds v (schedule w), rfl, rfl, cfRounds_succ v (schedule w)⟩,
    fun s => ⟨acceptBlock_finish s, ((acceptBlock_underWay s).engineRun 80).finish_vars (acceptBlock_finish s)⟩⟩

/-! ## The engine's side of the state, on its own (42_compression_rounds.md R139) -/

/-- What the engine reads and writes, with all that only the host and the cycle write put out of sight. -/
def State.engineSide (s : State) : State :=
  { s with errBusy := false, errCmd := false, rdata := 0, cycles := [], freeNext := 0 }

/-- An engine step does not look beyond the engine's side. -/
theorem engineStep_engineSide (s : State) : s.engineStep.engineSide = s.engineSide.engineStep := by
  have hphase : s.engineSide.phase = s.phase := rfl
  cases hp : s.phase with
  | idle => rw [engineStep_idle hp, engineStep_idle (hphase.trans hp)]
  | round =>
    rw [engineStep_round hp, engineStep_round (hphase.trans hp)]
    rfl
  | finish =>
    rw [engineStep_finish hp, engineStep_finish (hphase.trans hp)]
    rfl

theorem engineRun_engineSide (n : Nat) (s : State) :
    (State.engineRun n s).engineSide = State.engineRun n s.engineSide := by
  induction n generalizing s with
  | zero => rfl
  | succ n ih => rw [engineRun_succ, engineRun_succ, ih, engineStep_engineSide]

section
variable {s t u : State}

/-- While BUSY = 1 a host step leaves the engine's side as the cycle's start set it. -/
theorem CycleEffect.engineSide (hu : CycleEffect s u) (hb : s.busy = true) :
    u.engineSide = s.beginCycle.engineSide := by
  obtain ⟨hh, hvars, hmsg, hwin, hphase, ht, hblkcnt⟩ := hu.keeps_engine hb
  obtain ⟨-, -, hdone⟩ := hu.keeps_outside
  simp [State.engineSide, hh, hvars, hmsg, hwin, hphase, ht, hblkcnt, hdone]

/-- A step of a busy machine does to the engine's side what the engine alone does. -/
theorem step_busy_engineSide (h : step s = .next t) (hr : s.now.rst = false) (hb : s.busy = true) :
    t.engineSide = State.engineRun s.now.engine s.beginCycle.engineSide := by
  rcases step_cases h with ⟨hr', -⟩ | ⟨-, u, hu, rfl⟩
  · simp [hr] at hr'
  · rw [engineRun_engineSide, hu.engineSide hb, engineShare_eq, if_pos hb]

end

/-- Settles O31: either step's engine side is what the same number of engine steps make of the same engine side. -/
theorem hostCannotDisturbCompress : Obligations.HostCannotDisturbCompress := by
  intro s t u c d rest hb hc hd hengine ht hu
  have hside : t.engineSide = u.engineSide := calc
    t.engineSide = State.engineRun c.engine s.beginCycle.engineSide := step_busy_engineSide ht hc hb
    _ = State.engineRun d.engine s.beginCycle.engineSide := by rw [hengine]
    _ = u.engineSide := (step_busy_engineSide hu hd hb).symm
  simpa [State.engineSide] using hside

end Sys2Proof.Machine

/-! SUPPORT. PROOFS of the family 43_accumulate_and_digest.md: the FINISH step and the completion of a COMPRESS, the hash
state held until then, and the digits of the digest. -/

namespace Sys2Proof.Machine

/-! ## The completion of a COMPRESS (43_accumulate_and_digest.md R150) -/

/-- Settles O40: the step due in FINISH is `engineFinish`, and `accumulate` is the five sums. -/
theorem finishStep : Obligations.FinishStep := by
  intro s hp
  rw [engineStep_finish hp]
  exact ⟨rfl, rfl⟩

/-- A COMPRESS in flight on course is that of the hash state and the block it holds. -/
theorem EngineOnCourse.underWay {s : State} (h : EngineOnCourse s) (hb : s.busy = true) : BlockUnderWay s s :=
  ⟨rfl, rfl, rfl, h, Or.inl ⟨hb, rfl, rfl⟩⟩

/-- Once BUSY is 0, a block under way has been added to the hash state. -/
theorem BlockUnderWay.completed_h {s₀ s : State} (h : BlockUnderWay s₀ s) (hb : s.busy = false) :
    s.h = hashBlock s₀.h s₀.msg := by
  rcases h.stage with ⟨hbusy, -⟩ | ⟨-, hh, -⟩
  · simp [hb] at hbusy
  · exact hh

/-- While BUSY is 1, the hash state and the counter are those of the acceptance (R151). -/
theorem BlockUnderWay.holds {s₀ s : State} (h : BlockUnderWay s₀ s) (hb : s.busy = true) :
    s.h = s₀.h ∧ s.blkcnt = s₀.blkcnt := by
  rcases h.stage with ⟨-, hheld⟩ | ⟨hidle, -⟩
  · exact hheld
  · simp [hb] at hidle

/-- Settles O45: the host step leaves the block in flight as it was, and the engine's steps carry it to its end. -/
theorem completionAddsCF : Obligations.CompletionAddsCF := by
  intro s t hcourse hb hr hstep ht
  rcases step_cases hstep with ⟨hrst, -⟩ | ⟨-, u, hu, rfl⟩
  · simp [hr] at hrst
  · obtain ⟨hh, -, hmsg, -, hphase, -⟩ := hu.keeps_engine hb
    have hunder : BlockUnderWay u u := (hu.onCourse hcourse).underWay ((State.busy_congr hphase).trans hb)
    have hdone := (hunder.engineRun s.engineShare).completed_h ht
    rw [hh, hmsg] at hdone
    exact hdone

/-! ## The hash state while BUSY = 1 (43_accumulate_and_digest.md R151) -/

/-- Below the hole of its window, RD_H answers H[j] (44_host_commands.md R183). -/
theorem exec_rdH_hash (s : State) (j : Fin 5) : exec (.rdH ⟨j.val, by omega⟩) s = .next (s.answer s.h[j]) := by
  have hword : hOperand s ⟨j.val, by omega⟩ = s.h[j] := dif_pos (by simp only; omega)
  rw [← hword]
  rfl

/-- Below the hole of its window, RD_HEX answers HEX[j] (44_host_commands.md R185). -/
theorem exec_rdHex_digest (s : State) (j : Fin 10) :
    exec (.rdHex ⟨j.val, by omega⟩) s = .next (s.answer (hexWord s.h j)) := by
  have hword : hexOperand s ⟨j.val, by omega⟩ = hexWord s.h j := dif_pos (by simp only; omega)
  rw [← hword]
  rfl

/-- Settles O30: a block under way holds H and BLKCNT, which the reads answer; and so does any step that ends busy. -/
theorem hashHeldDuringCompress : Obligations.HashHeldDuringCompress := by
  refine ⟨fun s n hb => ?_, fun s t hb hr hstep ht => ?_⟩
  · intro t
    obtain ⟨hh, hk⟩ : t.h = s.h ∧ t.blkcnt = s.blkcnt := ((acceptBlock_underWay s).engineRun n).holds hb
    rw [← hh, ← hk]
    exact ⟨rfl, rfl, exec_rdH_hash t, exec_rdHex_digest t, rfl⟩
  · rcases step_inFlight hstep hr hb with ⟨-, -, hheld⟩ | ⟨hidle, -⟩
    · exact hheld
    · simp [ht] at hidle

/-! ## The digits of the digest (43_accumulate_and_digest.md R152 to R156) -/

@[simp] theorem hexStr_length (h : Vector Word 5) : (hexStr h).length = 40 := by simp [hexStr]

/-- A digit up to 9 has its ASCII code above that of 0 (R152). -/
theorem hexchar_decimal {n : BitVec 4} (hn : n ≤ 9#4) : hexchar n = 0x30#8 + n.setWidth 8 := if_pos (by bv_omega)

/-- Settles O50: the two ranges of `hexchar`, and HEXSTR character by character. -/
theorem hexDigitsAndString : Obligations.HexDigitsAndString :=
  ⟨fun _ => hexchar_decimal, rfl, rfl, rfl, rfl, rfl, rfl, fun h => ⟨hexStr_length h, hexStr_getElem? h⟩⟩

/-- Character 8k + p of the digest is digit p of H[k] (R153). -/
theorem digestChar_digit (h : Vector Word 5) {c : Fin 40} (k : Fin 5) {p : Nat} (hp : p < 8)
    (hc : c.val = 8 * k.val + p) : digestChar h c = hexchar (h[k].extractLsb' (28 - 4 * p) 4) := by
  have hword : c.val / 8 = k.val := by omega
  have hdigit : c.val % 8 = p := by omega
  simp [digestChar, hword, hdigit]

/-- HEX[2k] and HEX[2k + 1] are the two halves of the eight digits of H[k] (R154). -/
theorem hexWord_digits (h : Vector Word 5) {j : Fin 10} (k : Fin 5) {r : Nat} (hr : r < 2) (hj : j.val = 2 * k.val + r) :
    hexWord h j =
      hexchar (h[k].extractLsb' (28 - 4 * (4 * r)) 4) ++ hexchar (h[k].extractLsb' (28 - 4 * (4 * r + 1)) 4) ++
        hexchar (h[k].extractLsb' (28 - 4 * (4 * r + 2)) 4) ++ hexchar (h[k].extractLsb' (28 - 4 * (4 * r + 3)) 4) := by
  have hchar (q : Nat) (hq : q < 4) : digestChar h ⟨4 * j.val + q, by omega⟩ =
      hexchar (h[k].extractLsb' (28 - 4 * (4 * r + q)) 4) :=
    digestChar_digit h k (by omega) (by simp only; omega)
  rw [hexWord, hchar 1 (by decide), hchar 2 (by decide), hchar 3 (by decide)]
  exact congrArg (· ++ _ ++ _ ++ _) (hchar 0 (by decide))

/-- Settles O51: the bytes of HEX[j] are its characters, and two of its words hold the eight digits of a hash word. -/
theorem hexWordsRenderHash : Obligations.HexWordsRenderHash := fun h =>
  ⟨hexStr_hexWord h, fun k => ⟨hexWord_digits h k (r := 0) (by decide) rfl, hexWord_digits h k (r := 1) (by decide) rfl⟩⟩

/-- The code of every nibble is a lowercase hexadecimal digit's. -/
theorem hexchar_lowercase : ∀ n : BitVec 4,
    (0x30#8 ≤ hexchar n ∧ hexchar n ≤ 0x39#8) ∨ (0x61#8 ≤ hexchar n ∧ hexchar n ≤ 0x66#8) := by decide

/-- Byte 3 - q of HEX[j] is character 4j + q of the digest (R154). -/
theorem hexWord_byte (h : Vector Word 5) (j : Fin 10) (q : Fin 4) :
    (hexWord h j).extractLsb' (24 - 8 * q.val) 8 = digestChar h ⟨4 * j.val + q.val, by omega⟩ :=
  wordBe_byte (fun q => digestChar h ⟨4 * j.val + q.val, by omega⟩) q

/-- Settles O52: byte q of HEX[j] is a character of the digest, and each of these is the `hexchar` of a nibble. -/
theorem hexBytesAreLowercaseDigits : Obligations.HexBytesAreLowercaseDigits := by
  refine fun h => ⟨hexStr_length h, fun j q => ?_⟩
  have hpos : 24 - 8 * q.rev.val = 8 * q.val := by
    rw [Fin.val_rev]
    omega
  have hbyte := hexWord_byte h j q.rev
  rw [hpos] at hbyte
  simp only [hbyte]
  exact hexchar_lowercase _

end Sys2Proof.Machine

/-! SUPPORT. PROOFS of the family 44_host_commands.md: what each transaction and each command answers, and the cycle without
a transaction. -/

namespace Sys2Proof.Machine

/-! ## The reads (44_host_commands.md R170, R172, R178, R180, R182, R183, R185, R188) -/

/-- ERR_BUSY and ERR_CMD are bits 1 and 2 of STATUS (10_state.md R26). -/
theorem statusWord_errors (s : State) : s.statusWord.getLsbD 1 = s.errBusy ∧ s.statusWord.getLsbD 2 = s.errCmd := by
  have hbits : ∀ a b c : Bool,
      ((BitVec.ofBool a ++ BitVec.ofBool b ++ BitVec.ofBool c).setWidth 32).getLsbD 1 = b ∧
        ((BitVec.ofBool a ++ BitVec.ofBool b ++ BitVec.ofBool c).setWidth 32).getLsbD 2 = a := by decide
  exact hbits _ _ _

/-- Bits 31..3 of STATUS read 0 (10_state.md R26). -/
theorem statusWord_high {k : Nat} (s : State) (hk : 3 ≤ k) : s.statusWord.getLsbD k = false := by
  rw [State.statusWord, BitVec.getLsbD_setWidth, BitVec.getLsbD_of_ge _ _ hk, Bool.and_false]

/-- Settles O11: the answer is `statusWord`, whose bits are known; BUSY is a view of PHASE. -/
theorem statusReadBits : Obligations.StatusReadBits := by
  intro s
  obtain ⟨hbusy, hcmd⟩ := statusWord_errors s
  refine ⟨s.statusWord, rfl, ?_, hbusy, hcmd, fun _ => statusWord_high s⟩
  rw [statusWord_bit0, State.busy_eq]

/-- Settles O10: each read is `answer` with the register's own word. -/
theorem plainReadsAnswer : Obligations.PlainReadsAnswer :=
  fun _ => ⟨rfl, rfl, fun _ => rfl, rfl, fun _ _ => rfl⟩

/-- Settles O12: the windows' operands are `hOperand` and `hexOperand`, holes included. -/
theorem hashAndHexReadsAnswer : Obligations.HashAndHexReadsAnswer :=
  fun _ => ⟨fun _ => rfl, fun _ => rfl⟩

/-! ## The ignored writes (44_host_commands.md R171, R174, R184, R186, R187, R189) -/

/-- An instruction that `ignores` names leaves the state as it was. -/
theorem exec_ignored {i : Instr} (s : State) (hi : ignores i = true) : exec i s = .next s := by
  cases i with
  | wrCmd cw =>
    obtain rfl : cw = 0#32 := eq_of_beq hi
    rfl
  | wrId | wrBlkcnt | wrH | wrHex | wrRsvd | nop => rfl
  | _ => cases hi

/-- Settles O13: all six are among the ignored instructions. -/
theorem ignoredWritesChangeNothing : Obligations.IgnoredWritesChangeNothing :=
  fun s _ => ⟨exec_ignored s rfl, exec_ignored s rfl, fun _ => exec_ignored s rfl, fun _ => exec_ignored s rfl,
    fun _ _ => exec_ignored s rfl, exec_ignored s rfl⟩

/-! ## What BUSY decides (44_host_commands.md R175, R176, R181, 60_exceptions.md R201) -/

section
variable {s : State} (u : State)

theorem unlessBusy_accepts (hp : s.phase = .idle) : s.unlessBusy u = u :=
  State.unlessBusy_of_idle ((State.busy_false s).mpr hp)

theorem unlessBusy_rejects (hp : s.phase ≠ .idle) : s.unlessBusy u = { s with errBusy := true } :=
  State.unlessBusy_of_busy ((State.busy_eq s).mpr hp)

end

/-! ## WR_MSG (44_host_commands.md R181) -/

section
variable (s : State) {i : Fin 16} (v : Word)

theorem writeMsg_msg_same : (s.writeMsg i v).msg[i] = v := by simp

theorem writeMsg_msg_ne {k : Fin 16} (hk : k ≠ i) : (s.writeMsg i v).msg[k] = s.msg[k] :=
  Vector.getElem_set_ne i.isLt k.isLt fun hval => hk (Fin.ext hval.symm)

/-- A MSG write is seen at its own address only. -/
theorem regMap_writeMsg_ne {a : BitVec 6} (ha : a.toNat ≠ 0x10 + i.val) :
    (s.writeMsg i v).regMap a = s.regMap a := by
  by_contra hne
  rcases regMap_ne hne with ⟨-, hstatus⟩ | ⟨-, hcount⟩ | ⟨k, hk, hmsg⟩ | ⟨-, hhash⟩
  · exact hstatus rfl
  · exact hcount rfl
  · exact hmsg (writeMsg_msg_ne s v fun hki => ha (hki ▸ hk))
  · exact hhash rfl

end

/-- Settles O15: WR_MSG is `writeMsg` unless BUSY, and `regMap_writeMsg_ne` is its frame on the register map. -/
theorem messageWrite : Obligations.MessageWrite := by
  refine fun s i v => ⟨fun hp => ⟨s.writeMsg i v, ?_, writeMsg_msg_same s v, fun _ => writeMsg_msg_ne s v, rfl,
    fun _ => regMap_writeMsg_ne s v⟩, fun hp => ?_⟩
  · exact congrArg Host.Outcome.next (unlessBusy_accepts _ hp)
  · exact congrArg Host.Outcome.next (unlessBusy_rejects _ hp)

/-! ## The commands, alone and through CMD (44_host_commands.md R173 to R177) -/

/-- Settles O16: INIT is `startRun` unless BUSY. -/
theorem initStartsRun : Obligations.InitStartsRun :=
  fun _ => ⟨fun hp => congrArg Host.Outcome.next (unlessBusy_accepts _ hp),
    fun hp => congrArg Host.Outcome.next (unlessBusy_rejects _ hp)⟩

/-- Settles O17: COMPRESS is `acceptBlock` unless BUSY, and the engine's way from there is known. -/
theorem compressHandsBlockToEngine : Obligations.CompressHandsBlockToEngine := by
  refine fun s => ⟨fun hp => ⟨?_, rfl, acceptBlock_finish s, acceptBlock_idle s⟩, fun hp => ?_⟩
  · exact congrArg Host.Outcome.next (unlessBusy_accepts _ hp)
  · exact congrArg Host.Outcome.next (unlessBusy_rejects _ hp)

/-- WR_CMD does what the command that its data decodes to does (R173). -/
theorem exec_wrCmd (s : State) (cw : Word) : exec (.wrCmd cw) s = exec (decode (.cmd cw)) s := by
  cases hrow : cmdRow cw <;> simp [exec, execWrCmd, decode, hrow, CmdRow.instr]

/-- A reserved command word written to CMD is CMD_RSVD. -/
theorem exec_wrCmd_reserved (s : State) {cw : Word} (h0 : cw ≠ 0#32) (h1 : cw ≠ 1#32) (h2 : cw ≠ 2#32) :
    exec (.wrCmd cw) s = .next (s.raise .errCmd) := by
  rw [exec_wrCmd, (decode_cmd_reserved_iff cw).mpr ((reservedCommand_iff cw).mpr ⟨h0, h1, h2⟩)]
  rfl

/-- Settles O18: CMD_RSVD raises ErrCmd without looking at BUSY, and so does the write of its word to CMD. -/
theorem reservedCommandSetsErrCmd : Obligations.ReservedCommandSetsErrCmd :=
  fun s _ h0 h1 h2 => ⟨rfl, exec_wrCmd_reserved s h0 h1 h2⟩

/-- Settles O19: the write runs the decoded command, and each of the four commands has its outcome above. -/
theorem wrCmdRunsSelectedCommand : Obligations.WrCmdRunsSelectedCommand := by
  intro s v
  obtain ⟨hinit, hinitBusy⟩ := initStartsRun s
  obtain ⟨hcompress, hcompressBusy⟩ := compressHandsBlockToEngine s
  refine ⟨exec_wrCmd s v, ?_, ?_, ?_, ?_, exec_wrCmd_reserved s⟩
  · rintro rfl
    exact exec_ignored s rfl
  · rintro rfl hp
    exact hinit hp
  · rintro rfl hp
    exact (hcompress hp).1
  · rintro (rfl | rfl) hp
    · exact hinitBusy hp
    · exact hcompressBusy hp

/-! ## The cycle without a transaction (44_host_commands.md R190) -/

section
variable {s : State} {c : Cycle} {rest : List Cycle}

theorem beginCycle_of_cycles (hc : s.cycles = c :: rest) : s.beginCycle =
    { s with cycles := rest, rdata := Config.freeRdata s.freeNext, freeNext := s.freeNext + 1, done := false } := by
  simp [State.beginCycle, hc]

/-- A cycle that presents nothing is its start and then the engine's steps. -/
theorem step_silent (hr : s.now.rst = false) (hn : s.now.presents = none) :
    step s = .next (State.engineRun s.engineShare s.beginCycle) := by
  obtain ⟨u, ⟨-, rfl⟩ | ⟨e, he, -⟩, hstep⟩ := step_ordinary hr
  · exact hstep
  · simp [hn] at he

end

/-- Settles O7: with sel = 0 nothing is presented, and the state the statement writes out is `beginCycle`. -/
theorem idleCycleHasNoHostStep : Obligations.IdleCycleHasNoHostStep := by
  intro s c rest hc hr hsel
  have hnow := now_of_cycles hc
  rw [step_silent (hnow ▸ hr) (by simp [hnow, Cycle.presents, hsel]), engineShare_eq, hnow, beginCycle_of_cycles hc]

end Sys2Proof.Machine

/-! SUPPORT. PROOFS of the family 60_exceptions.md: the completion pulse `done`, and the idle engine. -/

namespace Sys2Proof.Machine

section
variable {s t : State}

/-- `done` after a step tells whether a COMPRESS completed at its edge (60_exceptions.md R205). -/
theorem step_done_iff (h : step s = .next t) :
    t.done = true ↔ s.now.rst = false ∧ s.busy = true ∧ t.busy = false := by
  cases hr : s.now.rst with
  | true =>
    rw [step_reset hr] at h
    cases h
    simp
  | false =>
    cases hb : s.busy with
    | false => simp [(step_idle h hr hb).keeps_outside.2.2]
    | true =>
      rcases step_inFlight h hr hb with ⟨hbusy, hdone, -⟩ | ⟨hbusy, hdone, -⟩
      · simp [hbusy, hdone]
      · simp [hbusy, hdone]

/-- A step of an idle machine that presents nothing is the cycle's start alone (60_exceptions.md R215). -/
theorem step_idle_silent (hb : s.busy = false) (hr : s.now.rst = false) (hn : s.now.presents = none) :
    step s = .next s.beginCycle := by
  rw [step_silent hr hn, engineShare_idle hb, engineRun_zero]

theorem sameRegisters_beginCycle (s : State) : SameRegisters s s.beginCycle :=
  ⟨rfl, rfl, rfl, rfl, rfl, rfl, rfl, rfl, rfl⟩

end

/-- Settles O27: `done` is raised by a completion only, and a completion leaves BUSY = 0, after which none can follow at
the next edge. -/
theorem donePulse : Obligations.DonePulse := by
  refine ⟨fun s t => step_done_iff, fun s t u hst htu hdone => ?_⟩
  obtain ⟨-, -, hidle⟩ := (step_done_iff hst).mp hdone
  refine Bool.eq_false_iff.mpr fun hu => ?_
  obtain ⟨-, hbusy, -⟩ := (step_done_iff htu).mp hu
  simp [hidle] at hbusy

/-- Settles O32: an idle engine has no share in the cycle, and the cycle's start writes no register. -/
theorem idleEngineHolds : Obligations.IdleEngineHolds := by
  intro s hp hr hsel
  have hsilent : s.now.presents = none := by simp [Cycle.presents, hsel]
  exact ⟨s.beginCycle, step_idle_silent ((State.busy_false s).mpr hp) hr hsilent, sameRegisters_beginCycle s,
    State.beginCycle_done s, State.beginCycle_cycles s⟩

end Sys2Proof.Machine

/-! SUPPORT. PROOFS of the family 70_reset_and_hazards.md: the reset edge, the end of every COMPRESS in flight, BUSY as the
host reads it, and the transaction in the cycle after another. -/

namespace Sys2Proof.Machine

/-! ## The reset edge (70_reset_and_hazards.md R230 to R232) -/

/-- Settles O8: the step is the reset edge, which sets its fields without looking at any but the list of cycles. -/
theorem resetEdgeFromAnyState : Obligations.ResetEdgeFromAnyState := by
  intro s c rest hc hr
  have hrst : s.now.rst = true := (congrArg Cycle.rst (now_of_cycles hc)).trans hr
  obtain ⟨-, -, -, -, -, hmsg, -⟩ := resetStateValues
  have hcycles : s.resetEdge.cycles = rest := congrArg List.tail hc
  exact ⟨s.resetEdge, step_reset hrst, rfl, hmsg, rfl, rfl, rfl, rfl, rfl, rfl, rfl, rfl, hcycles⟩

/-! ## The engine steps that a COMPRESS in flight still needs (70_reset_and_hazards.md R246) -/

/-- How many engine steps lead to BUSY = 0: the rounds to come and FINISH. -/
def State.stepsLeft (s : State) : Nat :=
  match s.phase with
  | .idle => 0
  | .round => 81 - s.t.val
  | .finish => 1

section
variable {s t : State}

theorem stepsLeft_idle (hp : s.phase = .idle) : s.stepsLeft = 0 := by simp [State.stepsLeft, hp]

theorem stepsLeft_round (hp : s.phase = .round) : s.stepsLeft = 81 - s.t.val := by simp [State.stepsLeft, hp]

theorem stepsLeft_finish (hp : s.phase = .finish) : s.stepsLeft = 1 := by simp [State.stepsLeft, hp]

theorem stepsLeft_congr (hp : t.phase = s.phase) (ht : t.t = s.t) : t.stepsLeft = s.stepsLeft := by
  simp [State.stepsLeft, hp, ht]

theorem stepsLeft_le (s : State) : s.stepsLeft ≤ 81 := by
  cases hp : s.phase with
  | idle => simp [stepsLeft_idle hp]
  | round => simp [stepsLeft_round hp]
  | finish => simp [stepsLeft_finish hp]

/-- No step is left exactly when BUSY is 0. -/
theorem stepsLeft_eq_zero : s.stepsLeft = 0 ↔ s.busy = false := by
  rw [State.busy_false]
  cases hp : s.phase with
  | idle => simp [stepsLeft_idle hp]
  | round =>
    have ht := s.t.isLt
    rw [stepsLeft_round hp]
    exact iff_of_false (by omega) (by simp)
  | finish => simp [stepsLeft_finish hp]

/-- Each engine step is one step less. -/
theorem engineStep_stepsLeft (s : State) : s.engineStep.stepsLeft = s.stepsLeft - 1 := by
  cases hp : s.phase with
  | idle => rw [engineStep_idle hp, stepsLeft_idle hp]
  | round =>
    have hlt := s.t.isLt
    rw [engineStep_round hp, stepsLeft_round hp]
    by_cases ht : s.t.val < 79
    · obtain ⟨hphase, hnext⟩ := engineRound_more ht
      rw [stepsLeft_round hphase, hnext]
      omega
    · rw [stepsLeft_finish (engineRound_last ht).1]
      omega
  | finish =>
    rw [engineStep_finish hp, stepsLeft_finish hp]
    exact stepsLeft_idle rfl

theorem engineRun_stepsLeft (n : Nat) (s : State) : (State.engineRun n s).stepsLeft = s.stepsLeft - n := by
  induction n generalizing s with
  | zero => rfl
  | succ n ih => rw [engineRun_succ, ih, engineStep_stepsLeft, Nat.sub_sub, Nat.add_comm 1 n]

/-- A step of a busy machine counts off the engine steps the cycle offers, whatever the host presents. -/
theorem step_stepsLeft (h : step s = .next t) (hr : s.now.rst = false) (hb : s.busy = true) :
    t.stepsLeft = s.stepsLeft - s.now.engine := by
  rcases step_cases h with ⟨hr', -⟩ | ⟨-, u, hu, rfl⟩
  · simp [hr] at hr'
  · obtain ⟨-, -, -, -, hphase, ht, -⟩ := hu.keeps_engine hb
    rw [engineRun_stepsLeft, stepsLeft_congr hphase ht, engineShare_eq, if_pos hb]

/-! ## BUSY = 0 within a number of cycles -/

/-- BUSY is 0 after some number of steps, at most n. -/
def State.EndsWithin (s : State) (n : Nat) : Prop :=
  ∃ k u, k ≤ n ∧ Host.Core.run Sys2Proof.core k s = .next u ∧ u.busy = false

theorem endsWithin_of_idle (n : Nat) (hb : s.busy = false) : s.EndsWithin n := ⟨0, s, Nat.zero_le n, rfl, hb⟩

theorem State.EndsWithin.cons {n : Nat} (ht : t.EndsWithin n) (h : step s = .next t) : s.EndsWithin (n + 1) := by
  obtain ⟨k, u, hk, hrun, hb⟩ := ht
  exact ⟨k + 1, u, Nat.succ_le_succ hk, (run_succ k h).trans hrun, hb⟩

/-- A run whose cycles offer the engine the steps it still needs comes to BUSY = 0. -/
theorem Runs.endsWithin {cs : List Cycle} (h : Runs s cs t) (hsum : s.stepsLeft ≤ (cs.map Cycle.engine).sum) :
    s.EndsWithin cs.length := by
  induction cs generalizing s with
  | nil => exact endsWithin_of_idle _ (stepsLeft_eq_zero.mp (Nat.le_zero.mp hsum))
  | cons c cs ih =>
    cases hb : s.busy with
    | false => exact endsWithin_of_idle _ hb
    | true =>
      obtain ⟨u, rest, hc, hr, hu, hrest⟩ := h.uncons
      have hnow := now_of_cycles hc
      have hleft := step_stepsLeft hu (hnow ▸ hr) hb
      rw [hnow] at hleft
      rw [List.map_cons, List.sum_cons] at hsum
      exact (ih hrest (by omega)).cons hu

/-- With no cycle waiting, each step is an idle cycle with one engine step (log entry 3). -/
theorem endsWithin_stepsLeft {n : Nat} (hc : s.cycles = []) (hn : s.stepsLeft ≤ n) : s.EndsWithin n := by
  induction n generalizing s with
  | zero => exact endsWithin_of_idle _ (stepsLeft_eq_zero.mp (Nat.le_zero.mp hn))
  | succ n ih =>
    cases hb : s.busy with
    | false => exact endsWithin_of_idle _ hb
    | true =>
      have hnow : s.now = idleCycle 1 := by simp [State.now, hc]
      obtain ⟨u, hu⟩ := noStepStops s
      have hleft : u.stepsLeft = s.stepsLeft - 1 := by
        rw [step_stepsLeft hu (by rw [hnow]; rfl) hb, hnow]
        rfl
      have hcu : u.cycles = [] := by rw [step_cycles hu, hc]; rfl
      exact (ih hcu (by omega)).cons hu

/-! ## POLL comes to its end (30_encoding.md R85) -/

/-- A read of STATUS while BUSY = 0 is a whole POLL. -/
theorem CycleRuns.polls_once (h : CycleRuns s (some (rd .status)) t) (hb : s.busy = false) : Polls s t :=
  ⟨[t.rdata], (pollEnds_last (h.pollAgain_rdata.trans hb)).mpr rfl, .code h (.done t)⟩

/-- A read of STATUS while BUSY = 1 begins a POLL that goes on after it. -/
theorem CycleRuns.polls_again {u : State} (h : CycleRuns s (some (rd .status)) t) (hb : s.busy = true)
    (hp : Polls t u) : Polls s u := by
  obtain ⟨vs, hend, hobs⟩ := hp
  exact ⟨t.rdata :: vs, (pollEnds_again (h.pollAgain_rdata.trans hb)).trans hend, .code h hobs⟩

theorem CycleRuns.polls_silent {u : State} (h : CycleRuns s none t) (hp : Polls t u) : Polls s u := by
  obtain ⟨vs, hend, hobs⟩ := hp
  exact ⟨vs, hend, .idle h hobs⟩

/-- A quiet step counts off the engine steps the cycle offers; an idle machine has none left. -/
theorem QuietStep.stepsLeft (h : QuietStep s t) : t.stepsLeft = s.stepsLeft - s.now.engine := by
  obtain ⟨v, rfl⟩ := h
  have hbegin : (s.beginCycle.answer v).stepsLeft = s.stepsLeft := stepsLeft_congr rfl rfl
  rw [engineRun_stepsLeft, engineShare_eq, hbegin]
  cases hb : s.busy with
  | false => simp [stepsLeft_eq_zero.mpr hb]
  | true => rfl

/-- A cycle at a reset edge presents nothing. -/
theorem not_rst_of_presents {c : Cycle} (h : c.presents.map Code.bare = some (rd .status)) : c.rst = false := by
  cases hr : c.rst with
  | false => rfl
  | true => simp [Cycle.presents, hr] at h

/-- A host that only reads STATUS, with idle cycles among its reads, ends its POLL: by the last cycle of the list the engine
has had the steps it needed. -/
theorem polls_of_offered {cs rest : List Cycle} {c : Cycle} (hc : s.cycles = cs ++ c :: rest)
    (hcs : ∀ d ∈ cs, d.rst = false ∧ (d.presents = none ∨ d.presents.map Code.bare = some (rd .status)))
    (hlast : c.presents.map Code.bare = some (rd .status)) (hsum : s.stepsLeft ≤ (cs.map Cycle.engine).sum) :
    ∃ t, Polls s t := by
  obtain ⟨u, hu⟩ := noStepStops s
  induction cs generalizing s u with
  | nil =>
    have hread : CycleRuns s (some (rd .status)) u := ⟨c, rest, hc, not_rst_of_presents hlast, hlast, hu⟩
    exact ⟨u, hread.polls_once (stepsLeft_eq_zero.mp (Nat.le_zero.mp hsum))⟩
  | cons d cs ih =>
    obtain ⟨⟨hr, hpres⟩, hcs⟩ := List.forall_mem_cons.mp hcs
    have hnext (hquiet : QuietStep s u) : ∃ t, Polls u t := by
      have hcu : u.cycles = cs ++ c :: rest := by rw [step_cycles hu, hc]; rfl
      have hleft := hquiet.stepsLeft
      rw [now_of_cycles hc] at hleft
      rw [List.map_cons, List.sum_cons] at hsum
      obtain ⟨w, hw⟩ := noStepStops u
      exact ih hcu hcs (by omega) w hw
    rcases hpres with hnone | hstatus
    · have hsilent : CycleRuns s none u := ⟨d, _, hc, hr, congrArg (Option.map Code.bare) hnone, hu⟩
      exact (hnext hsilent.quiet_silent).imp fun _ => hsilent.polls_silent
    · have hread : CycleRuns s (some (rd .status)) u := ⟨d, _, hc, hr, hstatus, hu⟩
      cases hb : s.busy with
      | false => exact ⟨u, hread.polls_once hb⟩
      | true => exact (hnext hread.quiet_readStatus).imp fun _ => hread.polls_again hb

end

/-- Settles O46: at most 81 engine steps are left in any state, and the cycles of each clause offer them. -/
theorem engineIsFair : Obligations.EngineIsFair :=
  ⟨fun s _ _ hrun hsum => hrun.endsWithin ((stepsLeft_le s).trans hsum),
    fun s _ _ _ hc hcs hlast hsum => polls_of_offered hc hcs hlast ((stepsLeft_le s).trans hsum),
    fun s hc => endsWithin_stepsLeft hc (stepsLeft_le s)⟩

/-! ## What the next cycle finds (70_reset_and_hazards.md R245, R248) -/

section
variable {s t : State}

/-- The answer of a read stands on rdata after its step: the engine does not write it. -/
theorem step_answers {i : Instr} {v : Word} (h : step s = .next t) (hr : s.now.rst = false) (hi : s.Presents i)
    (hexec : exec i s.beginCycle = .next (s.beginCycle.answer v)) : t.rdata = v := by
  obtain rfl := Host.Outcome.next.inj (h.symm.trans (step_presented hr hi hexec))
  obtain ⟨-, -, -, hrdata, -⟩ := engineRun_keeps s.engineShare (s.beginCycle.answer v)
  exact hrdata

/-- A step that ends BUSY ends with FINISH, in a state that holds H as it was. -/
theorem step_finishes (h : step s = .next t) (hr : s.now.rst = false) (hb : s.busy = true) (hb' : t.busy = false) :
    ∃ u : State, u.phase = .finish ∧ u.h = s.h ∧ t = u.engineFinish := by
  rcases step_cases h with ⟨hr', -⟩ | ⟨-, u, hu, rfl⟩
  · simp [hr] at hr'
  · obtain ⟨hh, -, -, -, hphase, -⟩ := hu.keeps_engine hb
    have hbusy : u.phase ≠ .idle := hphase ▸ (State.busy_eq s).mp hb
    rcases engineRun_inFlight s.engineShare hbusy hu.keeps_outside.2.2 with ⟨hp, -⟩ | ⟨-, -, -, k, -, hp, hk, hlast⟩
    · exact absurd ((State.busy_false _).mp hb') hp
    · exact ⟨State.engineRun k u, hp, hk.trans hh, hlast⟩

end

/-- Settles O47: the accepting edge, the answer of a read of STATUS at any other, and the FINISH that ends it. -/
theorem busyVisibleAtOnce : Obligations.BusyVisibleAtOnce := by
  intro s t c rest hc hr h
  have hr' : s.now.rst = false := (congrArg Cycle.rst (now_of_cycles hc)).trans hr
  refine ⟨fun hb hsel hd => ?_, fun hb hsel hd => ?_, fun hb hb' => ?_⟩
  · exact (step_idle_busy_iff h hr' hb).mpr (presents_of_cycles hc hr hsel hd)
  · rw [step_answers h hr' (presents_of_cycles hc hr hsel hd) rfl, statusWord_bit0, beginCycle_busy, hb]
  · obtain ⟨u, hp, hh, rfl⟩ := step_finishes h hr' hb hb'
    rcases step_inFlight h hr' hb with ⟨hbusy, -⟩ | ⟨-, hdone, hcount⟩
    · simp [hb'] at hbusy
    · refine ⟨hdone, hcount, u, hp, hh, (engineStep_finish hp).symm, ?_⟩
      rw [State.engineFinish_h, hh]
      rfl

/-- Settles O48: the write is accepted, as BUSY is 0, and the read's cycle begins with the buffer it left. -/
theorem readAfterWriteNextCycle : Obligations.ReadAfterWriteNextCycle := by
  intro s t u c d rest i v hb hc hcr hcsel hcd hdr hdsel hdd ht hu
  have htc : t.cycles = d :: rest := by rw [step_cycles ht, hc]; rfl
  have hwrite : t = s.beginCycle.writeMsg i v :=
    step_wrMsg_accepted ht ((now_of_cycles hc) ▸ hcr) hb (presents_of_cycles hc hcr hcsel hcd)
  have hread : u.rdata = t.msg[i] :=
    step_answers hu ((now_of_cycles htc) ▸ hdr) (presents_of_cycles htc hdr hdsel hdd) rfl
  rw [hread, hwrite]
  exact writeMsg_msg_same s.beginCycle v

end Sys2Proof.Machine

/-! SUPPORT. PROOFS of the family other: the decoding table of 95_test_vectors.md §2.9. -/

namespace Sys2Proof

/-- What a table row asserts, reduced to the encoder by the round trip: the numeral need only be the instruction's code. -/
theorem decodeTableWord_of_encode {nbits w : Nat} {i : Instr} (hcode : tableCode nbits w = .ok (encode i))
    (hwf : WellFormed i) : decodeTableWord nbits w = some i := by
  rw [decodeTableWord, hcode]
  exact congrArg some (decodeOfEncode i hwf)

/-- Settles O5: each numeral of the table is the code that the encoder gives the row's instruction, which is well formed. -/
theorem specWordsDecode : Obligations.SpecWordsDecode := by
  unfold Obligations.SpecWordsDecode
  and_intros <;> exact decodeTableWord_of_encode rfl rfl

end Sys2Proof
